-- ==== Sys2Proof/Word.lean ====
section
/-! DEFINITION. The two fixed-width word types of the host bus.

A bus word is 32 bits (00_scope.md R7) and a byte lane is 8 bits (20_memory.md R41). The W-bit operand
registers have no type of their own: W is a parameter of the build (00_scope.md R5), so their values are
unsigned integers (R8, R11) and `State.Inv` keeps each below 2^W (log 5). -/

namespace Sys2Proof

/-- A 32-bit host bus word, and the width of every control and status register. -/
abbrev Word := BitVec 32

/-- One byte lane of a bus word (20_memory.md R41). -/
abbrev Byte := BitVec 8

end Sys2Proof
end

