-- ==== Sys2Proof/Config.lean ====
section
/-! DEFINITION. What an implementation fixes: the operand width and the base address, the only two
parameters of the block (00_scope.md R5, R6, R7), and the constants of every build.

The spec leaves no value undefined after a command, so there is no free value here (INVENTORY.md,
"What the manual leaves open"). -/

namespace Sys2Proof

/-- The parameters of one build of the block. `nw` is NW = W / 32 of R5 (so W is a multiple of 32 by
construction) and `base` is BASE of R6. State carries its build, which no step changes (log 4). -/
structure Build where
  nw : Nat
  base : Nat
  deriving DecidableEq, Repr

/-- The operand width W in bits (R5). -/
def Build.w (b : Build) : Nat := 32 * b.nw

namespace Config

/-- The build that `State.reset` describes. DESIGN CHOICE, unsafe for claims about reset alone (log 4):
W = 32, the width 95_test_vectors.md uses unless it says otherwise, at BASE = 0. -/
def build : Build := ⟨1, 0⟩

/-- The size of the register aperture in bytes (20_memory.md R43), and the alignment of BASE (R6). -/
def apertureSize : Nat := 0x2000

/-- The bytes that one register window occupies (20_memory.md R44). -/
def windowSize : Nat := 0x400

/-- The constant value of the ID register (10_state.md R16). -/
def idValue : Word := 0x4D580007#32

end Config

end Sys2Proof
end

