-- ==== Sys2Proof/Syntax.lean ====
section
/-! DEFINITION. The commands of MXE-MR as syntax: one constructor for each row of spec/opcode_table.json.

A command word has no register field, immediate or mode field (30_encoding.md R60), so no constructor
carries an operand. -/

namespace Sys2Proof

/-- The five assigned commands (30_encoding.md R61). -/
inductive Instr where
  | nop
  | powmod
  | mrInit
  | mrRound
  | mrClear
  deriving DecidableEq, Repr

/-- The two fields of a command word before any check (30_encoding.md R59). -/
structure CommandFields where
  /-- OPCODE, bits 7:0. -/
  opcode : BitVec 8
  /-- RSVD, bits 31:8; must be 0. -/
  rsvd : BitVec 24
  deriving DecidableEq, Repr

end Sys2Proof
end

