-- ==== Sys2Proof/WellFormed.lean ====
section
/-! DEFINITION. Which builds, command fields and instructions are well formed.

An instruction has no operand (30_encoding.md R60), so every `Instr` is well formed; what can be ill formed
is a build (R5, R6) and the pair of fields of a command word (R62, R63). -/

namespace Sys2Proof

/-- A legal build: 32 <= W <= 8192, W a multiple of 32, BASE a multiple of the aperture size
(00_scope.md R5, R6). -/
def Build.legal (b : Build) : Bool :=
  decide (1 ≤ b.nw) && decide (b.nw ≤ 256) && decide (b.base % Config.apertureSize = 0)

/-- Legal command fields: OPCODE assigned (30_encoding.md R62) and RSVD = 0 (R63). -/
def CommandFields.wf (f : CommandFields) : Bool :=
  decide (f.opcode.toNat ≤ 4) && decide (f.rsvd = 0#24)

/-- Every command is well formed: it has no operand that could be out of range (30_encoding.md R60). -/
def Instr.wf : Instr → Bool
  | .nop => true
  | .powmod => true
  | .mrInit => true
  | .mrRound => true
  | .mrClear => true

end Sys2Proof
end

