-- ==== Sys2Proof/Decode.lean ====
section
/-! DEFINITION. Decoding and encoding of command words (30_encoding.md R58 to R65).

Decoding is total: every 32-bit word is one of the five commands, an E_OPCODE word or an E_RSVD word (R64).
No state takes part in it (R65). -/

namespace Sys2Proof

/-- Why a command word, or a list of bytes, is no command. -/
inductive DecodeError where
  /-- OPCODE in 0x05 to 0xFF, whatever RSVD holds (R62). -/
  | unassignedOpcode
  /-- OPCODE assigned, RSVD nonzero (R63). -/
  | reservedBits
  /-- Fewer than the four bytes of a command word (R58); never met on the bus, which carries whole words. -/
  | truncated
  deriving DecidableEq, Repr

/-- What decoding one command word gives. -/
inductive Decoded where
  | instr (i : Instr)
  | rejected (e : DecodeError)
  deriving DecidableEq, Repr

/-- The fields of a command word (R59): OPCODE is bits 7:0, RSVD bits 31:8. -/
def commandFields (v : Word) : CommandFields :=
  ⟨v.extractLsb' 0 8, v.extractLsb' 8 24⟩

/-- The command that an OPCODE selects (R61); none for an unassigned one (R62). -/
def instrOfOpcode (op : BitVec 8) : Option Instr :=
  if op = 0x00#8 then some .nop
  else if op = 0x01#8 then some .powmod
  else if op = 0x02#8 then some .mrInit
  else if op = 0x03#8 then some .mrRound
  else if op = 0x04#8 then some .mrClear
  else none

/-- Decoding of one command word, in the order of 40_command_lifecycle.md R70: the OPCODE first, then RSVD. -/
def decodeWord (v : Word) : Decoded :=
  match instrOfOpcode (commandFields v).opcode with
  | none => .rejected .unassignedOpcode
  | some i => if (commandFields v).rsvd = 0#24 then .instr i else .rejected .reservedBits

/-- The 32-bit word that four bytes carry, the first at the lowest address (20_memory.md R41). -/
def wordOfBytes (b0 b1 b2 b3 : Byte) : Word := b3 ++ b2 ++ b1 ++ b0

/-- Byte lane `k` of a bus word: bits 8k+7 down to 8k (20_memory.md R41). -/
def laneOf (v : Word) (k : Nat) : Byte := v.extractLsb' (8 * k) 8

/-- The four byte lanes of a word, lane 0 first. -/
def bytesOfWord (v : Word) : List Byte := [laneOf v 0, laneOf v 1, laneOf v 2, laneOf v 3]

/-- What decoding the front of a list of bytes gives: a command with the bytes after it, or a rejection. -/
inductive DecodedBytes where
  | instr (i : Instr) (rest : List Byte)
  | rejected (e : DecodeError)
  deriving DecidableEq, Repr

/-- Decoding on any list of bytes: every command is one word of four bytes (R58). -/
def decodeBytes : List Byte → DecodedBytes
  | b0 :: b1 :: b2 :: b3 :: rest =>
    match decodeWord (wordOfBytes b0 b1 b2 b3) with
    | .instr i => .instr i rest
    | .rejected e => .rejected e
  | _ => .rejected .truncated

/-- The OPCODE of a command (R61). -/
def opcodeOf : Instr → BitVec 8
  | .nop => 0x00#8
  | .powmod => 0x01#8
  | .mrInit => 0x02#8
  | .mrRound => 0x03#8
  | .mrClear => 0x04#8

/-- The command word of a command (R61): RSVD = 0 above its OPCODE. -/
def encode (i : Instr) : Word := 0#24 ++ opcodeOf i

/-- The bytes of a command word as the bus stores them. -/
def encodeBytes (i : Instr) : List Byte := bytesOfWord (encode i)

/-- The command that the decoder reads from the word `w` as spec/opcode_table.json numbers its bits: `nbits`
bits of `w`, every bit above them 0, laid out as four little-endian bytes. -/
def decodeTableWord (nbits w : Nat) : Option Instr :=
  match decodeBytes (bytesOfWord (BitVec.ofNat 32 (w % 2 ^ nbits))) with
  | .instr i _ => some i
  | .rejected _ => none

end Sys2Proof
end

