-- ==== Sys2Proof/Machine/State.lean ====
section
/-! DEFINITION. The state of MXE-MR as plain data: every register of 10_state.md R15, the in-flight register
PEND (R36), the build's parameters (00_scope.md R5, R6), and two fields of the model's own (the agenda of steps
to come and the answer to the last bus transaction).

Constants and derived bits (ID, PARAM, STATUS.BUSY, STATUS.IRQ) are computed where they are read, so no field
can disagree with what the spec derives them from (log 13). -/

namespace Sys2Proof.Machine

/-- The command error codes of 60_exceptions.md R103. Codes 0x9 to 0xF are never produced
(93_implementation_defined.md O7), so they have no constructor (log 13). -/
inductive ErrCode where
  | none
  | busy
  | opcode
  | rsvd
  | modZero
  | noInit
  | decided
  | witness
  | abort
  deriving DecidableEq, Repr

/-- The response of a bus transaction (20_memory.md R40). -/
inductive Resp where
  | okay
  | slverr
  | decerr
  deriving DecidableEq, Repr

/-- What a bus transaction returns (20_memory.md R40): a read returns data and a response, a write a response. -/
inductive Answer where
  | read (data : Word) (resp : Resp)
  | write (resp : Resp)
  deriving DecidableEq, Repr

/-- One step of the machine's environment or of one of its agents (00_scope.md R10): a host read, a host write
(20_memory.md R40; offsets are from BASE), the engine's step (40_command_lifecycle.md R75), or reset
(70_reset_and_hazards.md R119). -/
inductive Event where
  | read (off size : Nat)
  | write (off size : Nat) (strobes : BitVec 4) (data : Word)
  | engine
  | hwReset
  deriving DecidableEq, Repr

/-- An accepted command in flight with the snapshot of its operands (10_state.md R36). -/
structure Pending where
  op : Instr
  a : Nat
  d : Nat
  n : Nat
  deriving DecidableEq, Repr

/-- The 32-bit registers of the map at offsets 0x000 to 0x01C (20_memory.md R44). -/
inductive Csr where
  | id
  | param
  | ctrl
  | status
  | cmd
  | mrStatus
  | mrS
  | mrRounds
  deriving DecidableEq, Repr

/-- The register windows at offsets 0x400 to 0x1FFF (20_memory.md R44). -/
inductive Window where
  | opa
  | opd
  | opn
  | res
  | mrn
  | mrr
  | mry
  deriving DecidableEq, Repr

/-- What an offset selects (20_memory.md R43, R44): a register, word `i` of a window, the reserved range, or
nothing of the block. -/
inductive Target where
  | csr (r : Csr)
  | window (x : Window) (i : Nat)
  | reserved
  | outside
  deriving DecidableEq, Repr

/-- The state of the block and its build. -/
structure State where
  /-- W and BASE (00_scope.md R5, R6); no step changes it. -/
  build : Build
  /-- CTRL.IE_DONE (10_state.md R18). -/
  ieDone : Bool
  /-- CTRL.IE_ERR (10_state.md R18). -/
  ieErr : Bool
  /-- STATUS.DONE (10_state.md R21). -/
  done : Bool
  /-- STATUS.ERR (10_state.md R22). -/
  err : Bool
  /-- STATUS.ERRCODE (10_state.md R22). -/
  errcode : ErrCode
  /-- CMDLAST (10_state.md R24). -/
  cmdLast : Word
  /-- MR_STATUS.MR_INIT (10_state.md R26). -/
  mrInit : Bool
  /-- MR_STATUS.MR_DECIDED (10_state.md R27). -/
  mrDecided : Bool
  /-- MR_STATUS.MR_VERDICT (10_state.md R28). -/
  mrVerdict : Bool
  /-- MR_S (10_state.md R29). -/
  mrS : Word
  /-- MR_ROUNDS (10_state.md R34). -/
  mrRounds : Word
  /-- OPA, W bits (10_state.md R30). -/
  opa : Nat
  /-- OPD, W bits (10_state.md R31). -/
  opd : Nat
  /-- OPN, W bits (10_state.md R32). -/
  opn : Nat
  /-- RES, W bits (10_state.md R33). -/
  res : Nat
  /-- MRN, W bits (10_state.md R35). -/
  mrn : Nat
  /-- MRR, W bits (10_state.md R35). -/
  mrr : Nat
  /-- MRY, W bits (10_state.md R35). -/
  mry : Nat
  /-- PEND (10_state.md R36). -/
  pend : Option Pending
  /-- The steps to come, next first. The model's own field (log 1). -/
  agenda : List Event
  /-- The answer to the last bus transaction (20_memory.md R40). The model's own field (log 6). -/
  answer : Option Answer
  deriving DecidableEq, Repr

/-- Why a step can stop. -/
inductive Fault where
  /-- Raised by the engine step of POWMOD and of MR_ROUND when the modulus is 0: `x mod 0` is not defined
  (41_powmod.md R81) and the engine never meets it (00_scope.md R12). No state that a run reaches raises it
  (`Obligations.InvariantStatesNeverStop`). Safe (log 9). -/
  | modulusZero
  deriving DecidableEq, Repr

/-- Why an instruction can have no meaning here. -/
inductive Refusal where
  /-- Raised by an arm of `exec` for an instruction without a meaning; no arm raises it. Safe. -/
  | notModelled (mnemonic : String)
  deriving DecidableEq, Repr

/-- The reset state of a build (70_reset_and_hazards.md R120): every register 0, PEND none. The model's own
fields start empty (logs 1, 6). -/
def State.resetOf (b : Build) : State where
  build := b
  ieDone := false
  ieErr := false
  done := false
  err := false
  errcode := .none
  cmdLast := 0
  mrInit := false
  mrDecided := false
  mrVerdict := false
  mrS := 0
  mrRounds := 0
  opa := 0
  opd := 0
  opn := 0
  res := 0
  mrn := 0
  mrr := 0
  mry := 0
  pend := none
  agenda := []
  answer := none

/-- The machine right after reset, for the build of `Config.build` (log 4). -/
def State.reset : State := State.resetOf Config.build

end Sys2Proof.Machine
end

