-- ==== Sys2Proof/Machine/Flags.lean ====
section
/-! DEFINITION. The status bits: error codes, BUSY, IRQ, and the assembly of CTRL, STATUS and MR_STATUS as
words (10_state.md R18, R19, R20, R23, R25; 60_exceptions.md R103, R109). -/

namespace Sys2Proof.Machine

/-- The 4-bit value of an error code (60_exceptions.md R103). -/
def ErrCode.toBits : ErrCode → BitVec 4
  | .none => 0x0#4
  | .busy => 0x1#4
  | .opcode => 0x2#4
  | .rsvd => 0x3#4
  | .modZero => 0x4#4
  | .noInit => 0x5#4
  | .decided => 0x6#4
  | .witness => 0x7#4
  | .abort => 0x8#4

/-- STATUS.BUSY: 1 exactly when PEND holds a command (10_state.md R20). -/
def State.busy (s : State) : Bool := s.pend.isSome

/-- STATUS.IRQ and the level of the irq output (10_state.md R23, 60_exceptions.md R109). -/
def State.irq (s : State) : Bool := (s.done && s.ieDone) || (s.err && s.ieErr)

/-- A read of CTRL (10_state.md R18): `{28'b0, 0, 0, IE_ERR, IE_DONE}`. -/
def State.ctrlWord (s : State) : Word :=
  0#28 ++ 0#1 ++ 0#1 ++ BitVec.ofBool s.ieErr ++ BitVec.ofBool s.ieDone

/-- A read of STATUS (10_state.md R19): `{20'b0, ERRCODE, 4'b0, IRQ, ERR, DONE, BUSY}`. -/
def State.statusWord (s : State) : Word :=
  0#20 ++ s.errcode.toBits ++ 0#4 ++ BitVec.ofBool s.irq ++ BitVec.ofBool s.err ++ BitVec.ofBool s.done
    ++ BitVec.ofBool s.busy

/-- A read of MR_STATUS (10_state.md R25): MR_VERDICT, MR_DECIDED, MR_INIT in bits 2, 1, 0. -/
def State.mrStatusWord (s : State) : Word :=
  0#29 ++ BitVec.ofBool s.mrVerdict ++ BitVec.ofBool s.mrDecided ++ BitVec.ofBool s.mrInit

/-- A read of PARAM (10_state.md R17): NW in bits 15:0, 0 above. -/
def State.paramWord (s : State) : Word := 0#16 ++ BitVec.ofNat 16 s.build.nw

/-- `sat32(x + 1)` on a 32-bit counter (00_scope.md R8, 10_state.md R34): it stays at 0xFFFF_FFFF. -/
def satSucc (c : Word) : Word := if c = 0xFFFFFFFF#32 then c else c + 1#32

end Sys2Proof.Machine
end

