-- ==== Sys2Proof/Machine/Operands.lean ====
section
/-! DEFINITION. Operands and the register map: the words of a W-bit register (20_memory.md R42), what an offset
selects (R44, R45), which accesses are admitted (R46), what a read returns (R47), and the operand snapshot of a
command (40_command_lifecycle.md R71). -/

namespace Sys2Proof.Machine

/-- Word `i` of a W-bit value: bits 32i+31 down to 32i (20_memory.md R42). -/
def wordAt (x i : Nat) : Word := BitVec.ofNat 32 (x / 2 ^ (32 * i))

/-- A W-bit value with bits 32i+31 down to 32i replaced by `v` (20_memory.md R48). -/
def putWord (x i : Nat) (v : Word) : Nat :=
  x / 2 ^ (32 * (i + 1)) * 2 ^ (32 * (i + 1)) + v.toNat * 2 ^ (32 * i) + x % 2 ^ (32 * i)

/-- The register at word index `k` of offsets 0x000 to 0x01F (20_memory.md R44). -/
def csrAt : Nat → Option Csr
  | 0 => some .id
  | 1 => some .param
  | 2 => some .ctrl
  | 3 => some .status
  | 4 => some .cmd
  | 5 => some .mrStatus
  | 6 => some .mrS
  | 7 => some .mrRounds
  | _ => none

/-- The window at offsets 0x400 * k and up (20_memory.md R44). -/
def windowAt : Nat → Option Window
  | 1 => some .opa
  | 2 => some .opd
  | 3 => some .opn
  | 4 => some .res
  | 5 => some .mrn
  | 6 => some .mrr
  | 7 => some .mry
  | _ => none

/-- What the aligned word that holds offset `off` selects (20_memory.md R43, R44): a register below 0x020, the
reserved range 0x020 to 0x3FF, a window from 0x400 up, nothing of the block from 0x2000 up (log 7). -/
def locate (off : Nat) : Target :=
  match csrAt (off / 4) with
  | some r => .csr r
  | none =>
    if off < Config.windowSize then .reserved
    else
      match windowAt (off / Config.windowSize) with
      | some x => .window x (off % Config.windowSize / 4)
      | none => .outside

/-- The response to an access that starts at `off` (20_memory.md R44, R46): DECERR for the reserved range and for
offsets outside the aperture (log 7), before SLVERR for an access that is not an aligned 4-byte one with, for a
write, all strobes set. An access belongs to the range its first byte lies in (log 8). -/
def respOf (off size : Nat) (fullStrobes : Bool) : Resp :=
  match locate off with
  | .reserved => .decerr
  | .outside => .decerr
  | .csr _ => if size = 4 ∧ off % 4 = 0 ∧ fullStrobes then .okay else .slverr
  | .window _ _ => if size = 4 ∧ off % 4 = 0 ∧ fullStrobes then .okay else .slverr

/-- The value of the register behind a window (20_memory.md R44): the W-bit integers that the block receives and
returns, and the only form in which it does (R57). -/
def State.windowValue (s : State) : Window → Nat
  | .opa => s.opa
  | .opd => s.opd
  | .opn => s.opn
  | .res => s.res
  | .mrn => s.mrn
  | .mrr => s.mrr
  | .mry => s.mry

/-- A read of word `i` of a window: the register's word, or 0 at and above NW (20_memory.md R42, R45). It is the one
way a W-bit integer leaves the block (R57). -/
def State.windowWord (s : State) (x : Window) (i : Nat) : Word :=
  if i < s.build.nw then wordAt (s.windowValue x) i else 0#32

/-- A read of a 32-bit register (20_memory.md R47). A read of CMD returns CMDLAST (10_state.md R24). -/
def State.csrWord (s : State) : Csr → Word
  | .id => Config.idValue
  | .param => s.paramWord
  | .ctrl => s.ctrlWord
  | .status => s.statusWord
  | .cmd => s.cmdLast
  | .mrStatus => s.mrStatusWord
  | .mrS => s.mrS
  | .mrRounds => s.mrRounds

/-- The word that a target holds; 0 where there is none (20_memory.md R40, R47). -/
def State.targetWord (s : State) : Target → Word
  | .csr r => s.csrWord r
  | .window x i => s.windowWord x i
  | .reserved => 0#32
  | .outside => 0#32

/-- A write of `v` to word `i` of a window (20_memory.md R48): an operand register takes the word when `i < NW`;
a word at or above NW (R45) and a read-only window (R49) are left alone. It is the one way a W-bit integer enters the
block (R57). -/
def State.setWindowWord (x : Window) (i : Nat) (v : Word) (s : State) : State :=
  if i < s.build.nw then
    match x with
    | .opa => { s with opa := putWord s.opa i v }
    | .opd => { s with opd := putWord s.opd i v }
    | .opn => { s with opn := putWord s.opn i v }
    | .res => s
    | .mrn => s
    | .mrr => s
    | .mry => s
  else s

/-- The byte that the aperture shows at bus address `addr` (20_memory.md R41, R43): lane `off mod 4` of the word
at the offset `off = addr - BASE`; none outside the aperture and in the reserved range. This is the byte view a
byte-addressed host has of the registers; the bus itself admits whole words only (R46). -/
def State.byteAt (s : State) (addr : Nat) : Option Byte :=
  if s.build.base ≤ addr then
    match locate (addr - s.build.base) with
    | .csr r => some (laneOf (s.csrWord r) ((addr - s.build.base) % 4))
    | .window x i => some (laneOf (s.windowWord x i) ((addr - s.build.base) % 4))
    | .reserved => none
    | .outside => none
  else none

/-- The operand snapshot that a command takes at acceptance (40_command_lifecycle.md R71). -/
def State.snapshot (s : State) (i : Instr) : Pending := ⟨i, s.opa, s.opd, s.opn⟩

end Sys2Proof.Machine
end

