-- ==== Sys2Proof/Machine/Ops.lean ====
section
/-! DEFINITION. The shared operations on State: recording an error (the nearest thing to taking an exception,
60_exceptions.md R106, R111) and clearing it (the nearest thing to a return, R112), acceptance, completion, abort,
reset, and the two halves of every command (40_command_lifecycle.md R68 to R75). -/

namespace Sys2Proof.Machine

/-- Moves past the head of the agenda (log 1). -/
def State.advance (s : State) : State := { s with agenda := s.agenda.tail }

/-- Records what a bus transaction returned (20_memory.md R40, log 6). -/
def State.respond (a : Answer) (s : State) : State := { s with answer := some a }

/-- `raise E_X` (60_exceptions.md R106): ERR becomes 1, and ERRCODE takes the code if ERR was 0. -/
def State.raise (e : ErrCode) (s : State) : State :=
  { s with err := true, errcode := if s.err then s.errcode else e }

/-- A write of 1 to STATUS bit 2 (10_state.md R19, R22): ERR and ERRCODE become 0. -/
def State.clearErr (s : State) : State := { s with err := false, errcode := .none }

/-- `DONE <- 1`. -/
def State.finish (s : State) : State := { s with done := true }

/-- `DONE <- 0`: a write of 1 to STATUS bit 1 (10_state.md R19). -/
def State.clearDone (s : State) : State := { s with done := false }

/-- CTRL.IE_DONE and CTRL.IE_ERR take the written bits 0 and 1 (10_state.md R18). -/
def State.setEnables (d e : Bool) (s : State) : State := { s with ieDone := d, ieErr := e }

/-- The start of every acceptance (40_command_lifecycle.md R69): CMDLAST takes the word and DONE becomes 0. -/
def State.accept (v : Word) (s : State) : State := { s with cmdLast := v, done := false }

/-- A command refused at acceptance (40_command_lifecycle.md R70, R72): accepted, error raised, DONE set. -/
def State.refuse (e : ErrCode) (v : Word) (s : State) : State := ((s.accept v).raise e).finish

/-- `PEND <- some(op, a, d, n)` (40_command_lifecycle.md R73). -/
def State.launch (c : Pending) (s : State) : State := { s with pend := some c }

/-- `complete` (40_command_lifecycle.md R74): PEND becomes none and DONE becomes 1. -/
def State.complete (s : State) : State := { s with pend := none, done := true }

/-- A write of CTRL.ABORT = 1 (60_exceptions.md R113): an in-flight command is discarded with E_ABORT and DONE; an
idle block is left alone. -/
def State.abort (s : State) : State :=
  match s.pend with
  | some _ => (({ s with pend := none } : State).raise .abort).finish
  | none => s

/-- `Reset` (70_reset_and_hazards.md R119, R120): every register at its reset value and PEND none. The build is
constant (R123); the agenda is the environment's and the answer the port's, and both stay (log 11). -/
def State.toReset (s : State) : State :=
  { State.resetOf s.build with agenda := s.agenda, answer := s.answer }

/-- A pulse of rst_n (70_reset_and_hazards.md R119): `Reset`, with no transaction answered (log 11). -/
def State.hardReset (s : State) : State := { s.toReset with answer := none }

/-- An accepted command (40_command_lifecycle.md R69 to R73): its checks run on the snapshot and the context; the
first that fails refuses it, and otherwise `start` says how it begins. -/
def State.admission (i : Instr) (check : Pending → State → Option ErrCode) (start : Pending → State → State)
    (s : State) : State :=
  match check (s.snapshot i) s with
  | some e => s.refuse e (encode i)
  | none => start (s.snapshot i) (s.accept (encode i))

/-- The issue half of a command, a CMD write of its word: E_BUSY and nothing else while a command is in flight
(40_command_lifecycle.md R68), acceptance otherwise (R69). The write is answered OKAY (20_memory.md R48). -/
def State.issue (i : Instr) (check : Pending → State → Option ErrCode) (start : Pending → State → State)
    (s : State) : Host.Outcome State Fault Refusal :=
  .next (((if s.busy then s.raise .busy else s.admission i check start).respond (.write .okay)).advance)

/-- The engine half of a command (40_command_lifecycle.md R75): the whole effect and `complete` in one step. It is
enabled only while PEND holds that command; otherwise the turn passes (log 10). -/
def State.engineStep (i : Instr) (effect : Pending → State → Host.Outcome State Fault Refusal) (s : State) :
    Host.Outcome State Fault Refusal :=
  match s.pend with
  | some c =>
    if c.op = i then
      match effect c s with
      | .next t => .next t.complete.advance
      | .fault f => .fault f
      | .refused r => .refused r
    else .next s.advance
  | none => .next s.advance

/-- Whether the head of the agenda is the engine's step (log 1). -/
def State.engineTurn (s : State) : Bool :=
  match s.agenda with
  | .engine :: _ => true
  | _ => false

/-- The meaning of a command: its engine half on the engine's turn, its issue half otherwise (log 14). -/
def State.command (i : Instr) (check : Pending → State → Option ErrCode) (start : Pending → State → State)
    (effect : Pending → State → Host.Outcome State Fault Refusal) (s : State) : Host.Outcome State Fault Refusal :=
  if s.engineTurn then s.engineStep i effect else s.issue i check start

end Sys2Proof.Machine
end

