-- ==== Sys2Proof/Machine/Powmod.lean ====
section
/-! DEFINITION. POWMOD, modular exponentiation (41_powmod.md R80 to R86). -/

namespace Sys2Proof.Machine

/-- `bitlen(x)`, with `bitlen(0) = 0`: how often the loop of 41_powmod.md R82 runs. -/
def bitlen (x : Nat) : Nat := if x = 0 then 0 else Nat.log2 x + 1

/-- The loop of 41_powmod.md R82 with value accumulator `v`, base accumulator `p` and remaining exponent `e`, run
at most `fuel` times. Products are exact (00_scope.md R12). -/
def powLoop (n : Nat) : Nat → Nat → Nat → Nat → Nat
  | 0, _, v, _ => v
  | fuel + 1, e, v, p =>
    if 0 < e then powLoop n fuel (e / 2) (if e % 2 = 1 then v * p % n else v) (p * p % n) else v

/-- `PowMod(a, d, n)` (41_powmod.md R82) with the final reduction of R83 (90_conflicts.md C1). The base is not
reduced first. -/
def powMod (a d n : Nat) : Nat := powLoop n (bitlen d) d 1 a % n

/-- POWMOD's check at acceptance (41_powmod.md R81): `n = 0` gives E_MODZERO. -/
def checkPowmod (c : Pending) (_ : State) : Option ErrCode :=
  if c.n = 0 then some .modZero else none

/-- POWMOD's effect (41_powmod.md R80): RES takes `PowMod(a, d, n)` of the snapshot. `x mod 0` is not defined
(R81, log 9). -/
def effectPowmod (c : Pending) (s : State) : Host.Outcome State Fault Refusal :=
  if c.n = 0 then .fault .modulusZero else .next { s with res := powMod c.a c.d c.n }

/-- POWMOD (41_powmod.md R80). -/
def execPowmod (s : State) : Host.Outcome State Fault Refusal :=
  s.command .powmod checkPowmod State.launch effectPowmod

end Sys2Proof.Machine
end

