-- ==== Sys2Proof/Machine/MillerRabin.lean ====
section
/-! DEFINITION. The Miller-Rabin commands MR_INIT, MR_ROUND and MR_CLEAR (42_miller_rabin.md R88 to R97). -/

namespace Sys2Proof.Machine

/-- What MR_INIT loads for a candidate (42_miller_rabin.md R90). -/
structure MrLoad where
  decided : Bool
  verdict : Bool
  r : Nat
  s : Nat
  deriving DecidableEq, Repr

/-- "repeated halving while even, counting shifts s" (42_miller_rabin.md R90), at most `fuel` times. -/
def halveLoop : Nat → Nat → Nat → Nat × Nat
  | 0, r, s => (r, s)
  | fuel + 1, r, s => if r % 2 = 0 then halveLoop fuel (r / 2) (s + 1) else (r, s)

/-- `MRInit(n)` (42_miller_rabin.md R90), tested in the source's order. The loop runs fewer than `bitlen(n - 1)`
times. -/
def mrLoad (n : Nat) : MrLoad :=
  if n = 2 ∨ n = 3 then ⟨true, true, 0, 0⟩
  else if n % 2 = 0 ∨ n < 2 then ⟨true, false, 0, 0⟩
  else
    let (r, s) := halveLoop (bitlen (n - 1)) (n - 1) 0
    ⟨false, true, r, s⟩

/-- MR_INIT's effect (42_miller_rabin.md R89). -/
def effectMrInit (c : Pending) (s : State) : Host.Outcome State Fault Refusal :=
  let m := mrLoad c.n
  .next { s with
    mrn := c.n
    mry := 0
    mrRounds := 0
    mrInit := true
    mrDecided := m.decided
    mrVerdict := m.verdict
    mrr := m.r
    mrS := BitVec.ofNat 32 m.s }

/-- MR_INIT (42_miller_rabin.md R89). It has no check at acceptance. -/
def execMrInit (s : State) : Host.Outcome State Fault Refusal :=
  s.command .mrInit (fun _ _ => none) State.launch effectMrInit

/-- How the squaring loop of a round ends (42_miller_rabin.md R93). -/
inductive LoopEnd where
  /-- `y` became 1: the round has failed. -/
  | becameOne
  /-- The loop stopped at `n - 1` or ran out; the final test decides. -/
  | stopped (y : Nat)
  deriving DecidableEq, Repr

/-- The squaring loop of a round (42_miller_rabin.md R93) with `k` squarings left. -/
def squareLoop (n : Nat) : Nat → Nat → LoopEnd
  | 0, y => .stopped y
  | k + 1, y =>
    if y * y % n = 1 then .becameOne
    else if y * y % n = n - 1 then .stopped (y * y % n)
    else squareLoop n k (y * y % n)

/-- `MRRound(a, n, r, s)` (42_miller_rabin.md R93): whether the round passes, and the final `y`. -/
def mrRoundResult (a n r s : Nat) : Bool × Nat :=
  if powMod a r n = 1 ∨ powMod a r n = n - 1 then (true, powMod a r n)
  else
    match squareLoop n (s - 1) (powMod a r n) with
    | .becameOne => (false, 1)
    | .stopped y => if y = n - 1 then (true, y) else (false, y)

/-- MR_ROUND's checks at acceptance, in order (42_miller_rabin.md R92). `a > MRN - 2` is written without the
subtraction. -/
def checkMrRound (c : Pending) (s : State) : Option ErrCode :=
  if s.mrInit = false then some .noInit
  else if s.mrDecided = true then some .decided
  else if c.a < 2 ∨ s.mrn < c.a + 2 then some .witness
  else none

/-- MR_ROUND's effect (42_miller_rabin.md R91, R94 to R96): MRY takes the final `y`, MR_ROUNDS counts the round and
saturates, and a failing round decides the verdict 0. It uses the latched MRN, not OPN (R101). `x mod 0` is not
defined (log 9). -/
def effectMrRound (c : Pending) (s : State) : Host.Outcome State Fault Refusal :=
  if s.mrn = 0 then .fault .modulusZero
  else
    let out := mrRoundResult c.a s.mrn s.mrr s.mrS.toNat
    .next { s with
      mry := out.2
      mrRounds := satSucc s.mrRounds
      mrDecided := if out.1 then s.mrDecided else true
      mrVerdict := if out.1 then s.mrVerdict else false }

/-- MR_ROUND (42_miller_rabin.md R91). -/
def execMrRound (s : State) : Host.Outcome State Fault Refusal :=
  s.command .mrRound checkMrRound State.launch effectMrRound

/-- MR_CLEAR's effect (42_miller_rabin.md R97): the whole context becomes 0. -/
def effectMrClear (_ : Pending) (s : State) : Host.Outcome State Fault Refusal :=
  .next { s with
    mrn := 0
    mrr := 0
    mry := 0
    mrS := 0
    mrRounds := 0
    mrInit := false
    mrDecided := false
    mrVerdict := false }

/-- MR_CLEAR (42_miller_rabin.md R97). It has no check at acceptance. -/
def execMrClear (s : State) : Host.Outcome State Fault Refusal :=
  s.command .mrClear (fun _ _ => none) State.launch effectMrClear

end Sys2Proof.Machine
end

