-- ==== Sys2Proof/Machine/Nop.lean ====
section
/-! DEFINITION. NOP (40_command_lifecycle.md R77). -/

namespace Sys2Proof.Machine

/-- NOP completes in its acceptance step: DONE is 1 afterwards and PEND is untouched (40_command_lifecycle.md R73,
R77). It is never in flight; should PEND hold it all the same, the engine's step completes it with no effect
(log 10). -/
def execNop (s : State) : Host.Outcome State Fault Refusal :=
  s.command .nop (fun _ _ => none) (fun _ t => t.finish) (fun _ t => .next t)

end Sys2Proof.Machine
end

