-- ==== Sys2Proof/Machine/Dispatch.lean ====
section
/-! DEFINITION. One arm per command (40_command_lifecycle.md R72, R75): each calls the command's meaning. -/

namespace Sys2Proof.Machine

/-- The meaning of a command in a state: its issue half, or on the engine's turn its engine half (log 14). -/
def exec (i : Instr) (s : State) : Host.Outcome State Fault Refusal :=
  match i with
  | .nop => Sys2Proof.Machine.execNop s
  | .powmod => Sys2Proof.Machine.execPowmod s
  | .mrInit => Sys2Proof.Machine.execMrInit s
  | .mrRound => Sys2Proof.Machine.execMrRound s
  | .mrClear => Sys2Proof.Machine.execMrClear s

end Sys2Proof.Machine
end

