-- ==== Sys2Proof/Machine/Bus.lean ====
section
/-! DEFINITION. Bus transactions (20_memory.md R40, R44 to R50): what a read returns and what a write does. A CMD
write whose word is one of the five commands is that command's issue half and is not here. -/

namespace Sys2Proof.Machine

/-- `Read(off, size)` (20_memory.md R40, R47): the word with OKAY, or data 0 with the error response (60_exceptions.md
R104). -/
def State.busRead (s : State) (off size : Nat) : Answer :=
  match respOf off size true with
  | .okay => .read (s.targetWord (locate off)) .okay
  | .slverr => .read 0#32 .slverr
  | .decerr => .read 0#32 .decerr

/-- A write of CTRL (10_state.md R18): SRST alone if bit 3 is 1 (70_reset_and_hazards.md R121, R122), otherwise the
enables and then ABORT if bit 2 is 1. -/
def State.writeCtrl (v : Word) (s : State) : State :=
  if v.getLsbD 3 then s.toReset
  else
    let t := s.setEnables (v.getLsbD 0) (v.getLsbD 1)
    if v.getLsbD 2 then t.abort else t

/-- A write of STATUS (10_state.md R19): bit 1 clears DONE, bit 2 clears ERR and ERRCODE. -/
def State.writeStatus (v : Word) (s : State) : State :=
  let t := if v.getLsbD 1 then s.clearDone else s
  if v.getLsbD 2 then t.clearErr else t

/-- The error that an illegal command word raises (40_command_lifecycle.md R70). -/
def errOfReject : DecodeError → ErrCode
  | .unassignedOpcode => .opcode
  | .reservedBits => .rsvd
  | .truncated => .opcode

/-- A write to CMD of a word that is no command (40_command_lifecycle.md R68 to R70): E_BUSY while a command is in
flight, otherwise accepted and refused at once. A word that is a command reaches `exec` instead (`fetch`). -/
def State.writeIllegal (v : Word) (s : State) : State :=
  if s.busy then s.raise .busy
  else
    match decodeWord v with
    | .rejected e => s.refuse (errOfReject e) v
    | .instr _ => s

/-- A write to a 32-bit register (20_memory.md R48); read-only registers ignore it (R49). -/
def State.writeCsr (r : Csr) (v : Word) (s : State) : State :=
  match r with
  | .id => s
  | .param => s
  | .ctrl => s.writeCtrl v
  | .status => s.writeStatus v
  | .cmd => s.writeIllegal v
  | .mrStatus => s
  | .mrS => s
  | .mrRounds => s

/-- An admitted write (20_memory.md R48). -/
def State.writeTarget (x : Target) (v : Word) (s : State) : State :=
  match x with
  | .csr r => s.writeCsr r v
  | .window w i => s.setWindowWord w i v
  | .reserved => s
  | .outside => s

/-- Whether all four byte strobes of a write are set (20_memory.md R46). -/
def fullStrobes (strobes : BitVec 4) : Bool := strobes == 0xF#4

/-- `Write(off, size, strobes, data32)` (20_memory.md R40, R48): the effect with OKAY, or the error response and no
effect (60_exceptions.md R104). -/
def State.busWrite (off size : Nat) (strobes : BitVec 4) (v : Word) (s : State) : State :=
  match respOf off size (fullStrobes strobes) with
  | .okay => (s.writeTarget (locate off) v).respond (.write .okay)
  | .slverr => s.respond (.write .slverr)
  | .decerr => s.respond (.write .decerr)

end Sys2Proof.Machine
end

