-- ==== Sys2Proof/Machine/Fetch.lean ====
section
/-! DEFINITION. Which step comes next (00_scope.md R10, 70_reset_and_hazards.md R131) and, when that step belongs to a
command, which command it is. A command reaches the block only as the data of a CMD write (20_memory.md R55), and
its engine half runs while PEND holds it (40_command_lifecycle.md R75). -/

namespace Sys2Proof.Machine

/-- The offset of CMD (20_memory.md R44). -/
def cmdOffset : Nat := 0x010

/-- With no step of the host or of reset to come, the enabled engine step is the next one (weak fairness,
70_reset_and_hazards.md R131; log 3). -/
def State.schedule (s : State) : State :=
  match s.agenda with
  | [] => if s.busy then { s with agenda := [.engine] } else s
  | _ :: _ => s

/-- The word that an event writes to CMD, if it is an admitted write to CMD (20_memory.md R46, R48). -/
def commandWord : Event → Option Word
  | .write off size strobes v =>
    match respOf off size (fullStrobes strobes), locate off with
    | .okay, .csr .cmd => some v
    | _, _ => none
  | .read _ _ => none
  | .engine => none
  | .hwReset => none

/-- The command whose half the next step is: the one a CMD write issues, or on the engine's turn the one in flight;
none for every other step. -/
def State.fetch (s : State) : Option Instr :=
  match s.agenda with
  | [] => none
  | .engine :: _ => s.pend.map Pending.op
  | e :: _ =>
    match commandWord e with
    | some v =>
      match decodeWord v with
      | .instr i => some i
      | .rejected _ => none
    | none => none

/-- A step that is no half of a command: a read, a write, reset, an engine turn with nothing in flight (log 10), or
an idle block with nothing to come (60_exceptions.md R118). -/
def State.otherStep (s : State) : State :=
  match s.agenda with
  | [] => s
  | .engine :: _ => s.advance
  | .hwReset :: _ => s.hardReset.advance
  | .read off size :: _ => (s.respond (s.busRead off size)).advance
  | .write off size strobes v :: _ => (s.busWrite off size strobes v).advance

end Sys2Proof.Machine
end

