-- ==== Sys2Proof/Machine/Step.lean ====
section
/-! DEFINITION. One step of the machine: the next step of the agenda (00_scope.md R10), which is one half of a command
or a step that no command takes part in. -/

namespace Sys2Proof.Machine

/-- One step. -/
def step (s : State) : Host.Outcome State Fault Refusal :=
  match s.schedule.fetch with
  | some i => exec i s.schedule
  | none => .next s.schedule.otherStep

/-- `s` with a CMD write of the command word `w` (bits above `nbits` 0) as the next step: how a command is given to
this machine, which fetches none (20_memory.md R55; log 2). -/
def State.withFetchWord (s : State) (nbits w : Nat) : State :=
  { s with agenda := .write cmdOffset 4 0xF#4 (BitVec.ofNat 32 (w % 2 ^ nbits)) :: s.agenda }

end Sys2Proof.Machine
end

