-- ==== Sys2Proof/Machine/HostNotation.lean ====
section
/-! DEFINITION. The host notation of 30_encoding.md R66 and R67 as lists of bus transactions, and the host's
`IsPrime` procedure of 42_miller_rabin.md R98. A pseudo-instruction has no
meaning beyond its expansion (R67). -/

namespace Sys2Proof.Machine

namespace Script

/-- `WR off, v`: `MemWrite(off, 4, v)` (R66). -/
def wr (off : Nat) (v : Word) : Event := .write off 4 0xF#4 v

/-- `RD off`: `MemRead(off, 4)` (R66). -/
def rd (off : Nat) : Event := .read off 4

/-- The offset of STATUS (20_memory.md R44). -/
def statusOffset : Nat := 0x00C

/-- The offset of CTRL (20_memory.md R44). -/
def ctrlOffset : Nat := 0x008

/-- The first offset of a window (20_memory.md R44). -/
def windowBase : Window → Nat
  | .opa => 0x400
  | .opd => 0x800
  | .opn => 0xC00
  | .res => 0x1000
  | .mrn => 0x1400
  | .mrr => 0x1800
  | .mry => 0x1C00

/-- `CMD m` (R67). -/
def cmd (i : Instr) : List Event := [wr cmdOffset (encode i)]

/-- `LD X, value` on a build with `nw` words (R67): word 0 first. -/
def ld (nw : Nat) (x : Window) (value : Nat) : List Event :=
  (List.range nw).map fun i => wr (windowBase x + 4 * i) (wordAt value i)

/-- `CLRST` (R67): clears DONE and ERR. -/
def clrst : List Event := [wr statusOffset 0x00000006#32]

/-- `GET X` on a build with `nw` words (R67). -/
def get (nw : Nat) (x : Window) : List Event :=
  (List.range nw).map fun i => rd (windowBase x + 4 * i)

/-- `WAIT` (R67) as one run of it: `polls` reads of STATUS that see BUSY, the engine's step, and the read that ends
it. The number of polls is not fixed (70_reset_and_hazards.md R131). -/
def wait (polls : Nat) : List Event :=
  List.replicate polls (rd statusOffset) ++ [.engine, rd statusOffset]

end Script

/-- The host's transactions of one run of a script, in their order: as many steps as the script has entries, whatever
agenda stood before. -/
def State.runScript (script : List Event) (s : State) : Host.Outcome State Fault Refusal :=
  Sys2Proof.core.run script.length ({ s with agenda := script } : State)

/-- The loop of the host's `IsPrime` (42_miller_rabin.md R98) over the witnesses that `draw()` gives, one for each of
the `iters` rounds, each with how often that round's `WAIT` sees BUSY: it stops early once MR_DECIDED is 1 (R99). -/
def State.hostRounds : List (Nat × Nat) → State → Host.Outcome State Fault Refusal
  | [], s => .next s
  | (a, polls) :: rest, s =>
    if s.mrDecided then .next s
    else
      match s.runScript (Script.ld s.build.nw .opa a ++ Script.cmd .mrRound ++ Script.wait polls) with
      | .next t => t.hostRounds rest
      | .fault f => .fault f
      | .refused r => .refused r

/-- The host's `IsPrime(n, iters)` on the block (42_miller_rabin.md R98): load the candidate, then the rounds. Its
first `WAIT` sees BUSY `polls` times. -/
def State.hostIsPrime (polls n : Nat) (draws : List (Nat × Nat)) (s : State) : Host.Outcome State Fault Refusal :=
  match s.runScript (Script.ld s.build.nw .opn n ++ Script.cmd .mrInit ++ Script.wait polls) with
  | .next t => t.hostRounds draws
  | .fault f => .fault f
  | .refused r => .refused r

end Sys2Proof.Machine
end

