-- ==== Sys2Proof/Safety.lean ====
section
/-! DEFINITION. The invariant of the block and what a safe run is: the terms the statements use. -/

namespace Sys2Proof.Machine

/-- Every W-bit register holds a value below 2^W (00_scope.md R11, R13). -/
abbrev State.RegsFit (s : State) : Prop :=
  s.opa < 2 ^ s.build.w ∧ s.opd < 2 ^ s.build.w ∧ s.opn < 2 ^ s.build.w ∧ s.res < 2 ^ s.build.w ∧
    s.mrn < 2 ^ s.build.w ∧ s.mrr < 2 ^ s.build.w ∧ s.mry < 2 ^ s.build.w

/-- The Miller-Rabin context is in one of the three shapes of 42_miller_rabin.md R88. -/
abbrev State.ContextOk (s : State) : Prop :=
  (s.mrInit = false →
    s.mrDecided = false ∧ s.mrVerdict = false ∧ s.mrS = 0#32 ∧ s.mrRounds = 0#32 ∧
      s.mrn = 0 ∧ s.mrr = 0 ∧ s.mry = 0) ∧
  (s.mrInit = true → s.mrDecided = false →
    s.mrVerdict = true ∧ s.mrn % 2 = 1 ∧ 5 ≤ s.mrn ∧ s.mrn - 1 = 2 ^ s.mrS.toNat * s.mrr ∧
      s.mrr % 2 = 1 ∧ 1 ≤ s.mrS.toNat)

/-- What holds of a command in flight (40_command_lifecycle.md R71 to R73): it is not NOP (R77), its snapshot fits in
W bits, DONE is 0 (70_reset_and_hazards.md R128), CMDLAST holds its word (60_exceptions.md R103), and the checks it
passed at acceptance still hold, since nothing but its own completion or a reset writes the context (R79). -/
abbrev State.PendOk (s : State) : Prop :=
  ∀ c ∈ s.pend,
    c.op ≠ .nop ∧ (c.a < 2 ^ s.build.w ∧ c.d < 2 ^ s.build.w ∧ c.n < 2 ^ s.build.w) ∧
      s.done = false ∧ s.cmdLast = encode c.op ∧
      (c.op = .powmod → c.n ≠ 0) ∧
      (c.op = .mrRound → s.mrInit = true ∧ s.mrDecided = false ∧ 2 ≤ c.a ∧ c.a + 2 ≤ s.mrn)

/-- The invariant of the block: it holds at reset of every legal build, and every step keeps it. -/
structure State.Inv (s : State) : Prop where
  /-- W and BASE are legal (00_scope.md R5, R6). -/
  legal : s.build.legal = true
  /-- Every W-bit register fits (00_scope.md R13). -/
  fits : s.RegsFit
  /-- ERR is 1 exactly when ERRCODE names an error (10_state.md R22, 60_exceptions.md R103). -/
  errs : s.err = false ↔ s.errcode = .none
  /-- The context is in a shape of 42_miller_rabin.md R88. -/
  context : s.ContextOk
  /-- A command in flight is as its acceptance left it. -/
  flight : s.PendOk

/-- A step is safe if it gives a next state: no fault, no refusal (40_command_lifecycle.md R75, "never stuck"). -/
def SafeStep (s : State) : Prop := ∃ t, step s = .next t

/-- The state that the whole of `agenda` starts from: a build just out of reset with these steps to come. -/
def State.start (b : Build) (agenda : List Event) : State := { State.resetOf b with agenda := agenda }

/-- Whether a step writes RES or the Miller-Rabin context at all (40_command_lifecycle.md R79): the engine's step,
reset, or an admitted write of CTRL with SRST set. -/
def Event.mayChangeResults : Event → Bool
  | .engine => true
  | .hwReset => true
  | .write off size strobes v =>
    decide (respOf off size (fullStrobes strobes) = .okay ∧ locate off = .csr .ctrl) && v.getLsbD 3
  | .read _ _ => false

/-- RES and the Miller-Rabin context of two states agree. -/
def State.SameResults (s t : State) : Prop :=
  t.res = s.res ∧ t.mrn = s.mrn ∧ t.mrr = s.mrr ∧ t.mry = s.mry ∧ t.mrS = s.mrS ∧ t.mrRounds = s.mrRounds ∧
    t.mrInit = s.mrInit ∧ t.mrDecided = s.mrDecided ∧ t.mrVerdict = s.mrVerdict

/-- The operand registers, the interrupt enables and the build of two states agree. -/
def State.SameOperands (s t : State) : Prop :=
  t.opa = s.opa ∧ t.opd = s.opd ∧ t.opn = s.opn ∧ t.ieDone = s.ieDone ∧ t.ieErr = s.ieErr ∧ t.build = s.build

/-- Every byte that the aperture shows at an offset outside `changed` is the same in two states (20_memory.md R41,
R43). -/
def State.SameBytesOutside (changed : Nat → Prop) (s t : State) : Prop :=
  ∀ off, ¬ changed off → t.byteAt (s.build.base + off) = s.byteAt (s.build.base + off)

/-- The offsets of the bytes of STATUS and CMD (20_memory.md R44), which every command may change. -/
def commandBytes (off : Nat) : Prop := 0x00C ≤ off ∧ off < 0x014

/-- The offsets of the bytes of RES (20_memory.md R44). -/
def resultBytes (off : Nat) : Prop := 0x1000 ≤ off ∧ off < 0x1400

/-- The offsets of the bytes of the Miller-Rabin context: MR_STATUS, MR_S, MR_ROUNDS, MRN, MRR and MRY
(20_memory.md R44). -/
def contextBytes (off : Nat) : Prop := (0x014 ≤ off ∧ off < 0x020) ∨ (0x1400 ≤ off ∧ off < 0x2000)

/-- Whether a window is one of the operand registers, which the host may write (20_memory.md R44, R48). -/
def Window.isOperand : Window → Bool
  | .opa => true
  | .opd => true
  | .opn => true
  | .res => false
  | .mrn => false
  | .mrr => false
  | .mry => false

/-- Whether a register ignores every write (20_memory.md R49). -/
def Csr.isReadOnly : Csr → Bool
  | .id => true
  | .param => true
  | .ctrl => false
  | .status => false
  | .cmd => false
  | .mrStatus => true
  | .mrS => true
  | .mrRounds => true

/-- Whether an event can end a recorded error: reset, or an admitted write of CTRL with SRST set or of STATUS with
bit 2 set (10_state.md R22). -/
def Event.mayClearErr : Event → Bool
  | .hwReset => true
  | .write off size strobes v =>
    decide (respOf off size (fullStrobes strobes) = .okay) &&
      ((decide (locate off = .csr .ctrl) && v.getLsbD 3) || (decide (locate off = .csr .status) && v.getLsbD 2))
  | .engine => false
  | .read _ _ => false

/-- Whether an event resets the block: rst_n, or an admitted write of CTRL with SRST set
(70_reset_and_hazards.md R119, R121). -/
def Event.isReset : Event → Bool
  | .hwReset => true
  | .write off size strobes v =>
    decide (respOf off size (fullStrobes strobes) = .okay ∧ locate off = .csr .ctrl) && v.getLsbD 3
  | .engine => false
  | .read _ _ => false

/-- The next step is the engine's completion of command `i` (40_command_lifecycle.md R75): it is the engine's turn, by
the agenda or by its end (log 3), and `i` is in flight. -/
def State.Completes (s : State) (i : Instr) : Prop := s.schedule.engineTurn = true ∧ ∃ c ∈ s.pend, c.op = i

/-- `n` passes the round for the base `a`, in closed form: for the decomposition `n - 1 = 2^k * r` with `r` odd, one
of `a^r = 1` and `a^(2^j r) = -1` with `j < k` holds modulo `n`. It says what 42_miller_rabin.md R93 decides without
the round's loop, and names no command of the block. -/
def StrongPass (a n : Nat) : Prop :=
  ∃ r k, r % 2 = 1 ∧ n - 1 = 2 ^ k * r ∧ (a ^ r % n = 1 ∨ ∃ j < k, a ^ (2 ^ j * r) % n = n - 1)

end Sys2Proof.Machine
end

