-- ==== Sys2Proof/Certificates/Slice0/Obligations.lean ====
section
/-! DEFINITION. The statements about MXE-MR for the provers, in the order of the spec's files. Most are over every
state of every build; the ones about runs and steps name the invariant they need. -/

section

open Sys2Proof Sys2Proof.Machine

/-! ### Encoding (30_encoding.md) -/

/-- R61, R62, R63: words written out from the spec's encoding decode as its tables say. -/
def Obligations.ListedWordsDecode : Prop :=
  decodeWord 0b00000000000000000000000000000000#32 = .instr .nop ∧
  decodeWord 0b00000000000000000000000000000001#32 = .instr .powmod ∧
  decodeWord 0b00000000000000000000000000000010#32 = .instr .mrInit ∧
  decodeWord 0b00000000000000000000000000000011#32 = .instr .mrRound ∧
  decodeWord 0b00000000000000000000000000000100#32 = .instr .mrClear ∧
  decodeWord 0b00000000000000000000000000000101#32 = .rejected .unassignedOpcode ∧
  decodeWord 0b00000000000000000000000100000101#32 = .rejected .unassignedOpcode ∧
  decodeWord 0b00000000000000000000000100000011#32 = .rejected .reservedBits

/-- R61 to R64: a word selects a command exactly when it is that command's word; every other word is an E_OPCODE word
(its low byte is above 4) or an E_RSVD word (its low byte is assigned and a higher bit is set). -/
def Obligations.EveryWordIsOneOfThreeKinds : Prop :=
  ∀ v : Word,
    (∀ i, decodeWord v = .instr i ↔ v.toNat = (opcodeOf i).toNat) ∧
    (decodeWord v = .rejected .unassignedOpcode ↔ 4 < v.toNat % 256) ∧
    (decodeWord v = .rejected .reservedBits ↔ v.toNat % 256 ≤ 4 ∧ v.toNat / 256 ≠ 0)

/-- Decoding and encoding agree on bytes, in both directions: the bytes of every well-formed command decode to it
whatever follows them, and bytes that decode to a command are that command's bytes. -/
def Obligations.DecodeEncodeAgree : Prop :=
  (∀ i rest, i.wf = true → decodeBytes (encodeBytes i ++ rest) = .instr i rest) ∧
  (∀ bytes i rest, decodeBytes bytes = .instr i rest → bytes = encodeBytes i ++ rest)

/-! ### The step and the command it runs -/

/-- A step runs the decoded command: a CMD write of a command's word is that command's `exec`, and so is the engine's
turn for the command in flight, whether the agenda names that turn or holds nothing more (log 3). The word that
`withFetchWord` places is the one `decodeTableWord` reads. -/
def Obligations.StepRunsTheCommand : Prop :=
  (∀ s v i rest, s.agenda = Script.wr 0x010 v :: rest → decodeWord v = .instr i → step s = exec i s) ∧
  (∀ s c rest, s.agenda = .engine :: rest → s.pend = some c → step s = exec c.op s) ∧
  (∀ s c, s.agenda = [] → s.pend = some c → step s = exec c.op { s with agenda := [.engine] }) ∧
  (∀ (s : State) nbits w i, decodeTableWord nbits w = some i →
    step (s.withFetchWord nbits w) = exec i (s.withFetchWord nbits w))

/-! ### Acceptance (40_command_lifecycle.md) -/

/-- R68: any word written to CMD while a command is in flight raises E_BUSY and changes nothing else. -/
def Obligations.CmdWriteWhileBusyIsRejected : Prop :=
  ∀ s c v rest, s.agenda = Script.wr 0x010 v :: rest → s.pend = some c →
    step s = .next { s with
      err := true
      errcode := if s.err then s.errcode else .busy
      answer := some (.write .okay)
      agenda := rest }

/-- R70 with R62, R63: an illegal word written to an idle block is accepted and refused at once, with E_OPCODE before
E_RSVD, and changes nothing but CMDLAST, DONE, ERR and ERRCODE. -/
def Obligations.IllegalWordIsRefused : Prop :=
  ∀ s v rest, s.agenda = Script.wr 0x010 v :: rest → s.pend = none →
    (4 < v.toNat % 256 ∨ v.toNat / 256 ≠ 0) →
    step s = .next { s with
      cmdLast := v
      done := true
      err := true
      errcode := if s.err then s.errcode else if 4 < v.toNat % 256 then .opcode else .rsvd
      answer := some (.write .okay)
      agenda := rest }

/-- R77: NOP on an idle block completes in its acceptance step: CMDLAST becomes 0, DONE becomes 1, nothing else
changes. While a command is in flight it raises E_BUSY instead. -/
def Obligations.NopCompletesAtAcceptance : Prop :=
  ∀ s : State, s.engineTurn = false →
    (s.pend = none →
      exec .nop s = .next { s with
        cmdLast := 0x00000000#32
        done := true
        answer := some (.write .okay)
        agenda := s.agenda.tail }) ∧
    (s.pend.isSome = true →
      exec .nop s = .next { s with
        err := true
        errcode := if s.err then s.errcode else .busy
        answer := some (.write .okay)
        agenda := s.agenda.tail })

/-- R69, R71, R73: POWMOD with a nonzero modulus, MR_INIT and MR_CLEAR on an idle block start: CMDLAST takes the word,
DONE becomes 0 and PEND takes the operand snapshot; nothing else changes. -/
def Obligations.UncheckedCommandsStart : Prop :=
  ∀ (s : State) (i : Instr) (v : Word), s.engineTurn = false → s.pend = none →
    (i = .powmod ∧ s.opn ≠ 0 ∧ v = 0x00000001#32 ∨ i = .mrInit ∧ v = 0x00000002#32 ∨
      i = .mrClear ∧ v = 0x00000004#32) →
    exec i s = .next { s with
      cmdLast := v
      done := false
      pend := some ⟨i, s.opa, s.opd, s.opn⟩
      answer := some (.write .okay)
      agenda := s.agenda.tail }

/-- R81: POWMOD with modulus 0 on an idle block is refused with E_MODZERO; RES and PEND are unchanged and DONE ends
at 1. -/
def Obligations.PowmodWithZeroModulusIsRefused : Prop :=
  ∀ s : State, s.engineTurn = false → s.pend = none → s.opn = 0 →
    exec .powmod s = .next { s with
      cmdLast := 0x00000001#32
      done := true
      err := true
      errcode := if s.err then s.errcode else .modZero
      answer := some (.write .okay)
      agenda := s.agenda.tail }

/-- R92: MR_ROUND on an idle block starts when a candidate is loaded, the verdict is open and the witness lies in
`[2, MRN - 2]`. -/
def Obligations.RoundStartsWithinRange : Prop :=
  ∀ s : State, s.engineTurn = false → s.pend = none → s.mrInit = true → s.mrDecided = false →
    2 ≤ s.opa → s.opa + 2 ≤ s.mrn →
    exec .mrRound s = .next { s with
      cmdLast := 0x00000003#32
      done := false
      pend := some ⟨.mrRound, s.opa, s.opd, s.opn⟩
      answer := some (.write .okay)
      agenda := s.agenda.tail }

/-- R92: otherwise MR_ROUND on an idle block is refused with the first error that applies: E_NOINIT, E_DECIDED,
E_WITNESS. The context is unchanged. -/
def Obligations.RoundIsRefusedInOrder : Prop :=
  ∀ (s : State) (e : ErrCode), s.engineTurn = false → s.pend = none →
    (e = .noInit ∧ s.mrInit = false ∨
      e = .decided ∧ s.mrInit = true ∧ s.mrDecided = true ∨
      e = .witness ∧ s.mrInit = true ∧ s.mrDecided = false ∧ (s.opa < 2 ∨ s.mrn < s.opa + 2)) →
    exec .mrRound s = .next { s with
      cmdLast := 0x00000003#32
      done := true
      err := true
      errcode := if s.err then s.errcode else e
      answer := some (.write .okay)
      agenda := s.agenda.tail }

/-- R78 and R69 to R73 for every word at once: a CMD write leaves RES, the context, the operands and the enables as
they were. While busy it leaves CMDLAST, DONE and PEND too and records an error; while idle CMDLAST takes the word and
either nothing starts and DONE is 1, or the word's command starts with its snapshot, DONE is 0 and no error is
recorded. -/
def Obligations.CmdWriteIsPrecise : Prop :=
  ∀ s t v rest, s.agenda = Script.wr 0x010 v :: rest → step s = .next t →
    s.SameResults t ∧ s.SameOperands t ∧ t.answer = some (.write .okay) ∧ t.agenda = rest ∧
    (s.busy = true → t.cmdLast = s.cmdLast ∧ t.done = s.done ∧ t.pend = s.pend ∧ t.err = true) ∧
    (s.busy = false → t.cmdLast = v ∧
      (t.pend = none ∧ t.done = true ∨
        ∃ i, i ≠ .nop ∧ v.toNat = (opcodeOf i).toNat ∧ t.pend = some ⟨i, s.opa, s.opd, s.opn⟩ ∧ t.done = false ∧
          t.err = s.err ∧ t.errcode = s.errcode))

/-- R20: BUSY is 1 exactly when PEND holds a command. The one thing that sets it is an admitted CMD write of a command
other than NOP that passes every check. The things that clear it are the completion step (which an empty agenda makes
the next one: log 3), an admitted write of CTRL with ABORT and without SRST, and reset or soft reset. -/
def Obligations.BusyFollowsTheLifecycle : Prop :=
  (∀ s : State, s.busy = true ↔ s.pend ≠ none) ∧
  (∀ s t, step s = .next t → s.busy = false → t.busy = true →
    ∃ v i off size strobes rest, s.agenda = .write off size strobes v :: rest ∧
      respOf off size (fullStrobes strobes) = .okay ∧ locate off = .csr .cmd ∧
      decodeWord v = .instr i ∧ i ≠ .nop ∧ t.pend = some ⟨i, s.opa, s.opd, s.opn⟩ ∧
      (i = .powmod → s.opn ≠ 0) ∧
      (i = .mrRound → s.mrInit = true ∧ s.mrDecided = false ∧ 2 ≤ s.opa ∧ s.opa + 2 ≤ s.mrn)) ∧
  (∀ s t, step s = .next t → s.busy = true → t.busy = false →
    (∃ i, s.Completes i) ∨ ∃ e ∈ s.agenda.head?,
      e.isReset = true ∨
        ∃ off size strobes v, e = .write off size strobes v ∧ respOf off size (fullStrobes strobes) = .okay ∧
          locate off = .csr .ctrl ∧ v.getLsbD 2 = true ∧ v.getLsbD 3 = false ∧
          t.errcode = if s.err then s.errcode else .abort)

/-! ### POWMOD (41_powmod.md) -/

/-- R84: the loop keeps `v * p^e` modulo `n`, so with enough turns it computes `v * p^e mod n` from any start. -/
def Obligations.PowLoopKeepsItsProduct : Prop :=
  ∀ n fuel e v p : Nat, 0 < n → bitlen e ≤ fuel → powLoop n fuel e v p % n = v * p ^ e % n

/-- R80, R84, R86: on the engine's turn POWMOD writes `a^d mod n` of its snapshot to RES (with `0^0 = 1`) and
completes; nothing else changes. -/
def Obligations.PowmodComputesThePower : Prop :=
  ∀ (s : State) (a d n : Nat), s.engineTurn = true → s.pend = some ⟨.powmod, a, d, n⟩ → 1 ≤ n →
    exec .powmod s = .next { s with
      res := a ^ d % n
      pend := none
      done := true
      agenda := s.agenda.tail }

/-- R86: in both halves POWMOD leaves the context, the operands and the enables alone, and it does the same whatever
the context holds. Of the bytes of the aperture it changes those of STATUS, CMD and RES at most. Its issue half leaves
RES too, and its engine half ERR, ERRCODE and CMDLAST. -/
def Obligations.PowmodFrame : Prop :=
  (∀ s t, exec .powmod s = .next t →
    s.SameOperands t ∧
    t.mrn = s.mrn ∧ t.mrr = s.mrr ∧ t.mry = s.mry ∧ t.mrS = s.mrS ∧ t.mrRounds = s.mrRounds ∧
    t.mrInit = s.mrInit ∧ t.mrDecided = s.mrDecided ∧ t.mrVerdict = s.mrVerdict ∧
    s.SameBytesOutside (fun off => commandBytes off ∨ resultBytes off) t ∧
    (s.engineTurn = false → t.res = s.res) ∧
    (s.engineTurn = true → t.err = s.err ∧ t.errcode = s.errcode ∧ t.cmdLast = s.cmdLast)) ∧
  (∀ (s t : State) (n r y : Nat) (k q : Word) (i d v : Bool), exec .powmod s = .next t →
    exec .powmod { s with mrn := n, mrr := r, mry := y, mrS := k, mrRounds := q, mrInit := i, mrDecided := d,
                          mrVerdict := v } =
      .next { t with mrn := n, mrr := r, mry := y, mrS := k, mrRounds := q, mrInit := i, mrDecided := d,
                     mrVerdict := v })

/-! ### The Miller-Rabin commands (42_miller_rabin.md) -/

/-- R89, R90: on the engine's turn MR_INIT settles `n = 2`, `n = 3`, even `n` and `n < 2`: verdict 1 for 2 and 3, 0
for the others, with MRR and MR_S 0. -/
def Obligations.MrInitSettlesSmallAndEven : Prop :=
  ∀ (s : State) (a d n : Nat), s.engineTurn = true → s.pend = some ⟨.mrInit, a, d, n⟩ →
    (n = 2 ∨ n = 3 ∨ n % 2 = 0 ∨ n < 2) →
    exec .mrInit s = .next { s with
      mrn := n
      mry := 0
      mrRounds := 0#32
      mrInit := true
      mrDecided := true
      mrVerdict := decide (n = 2 ∨ n = 3)
      mrr := 0
      mrS := 0#32
      pend := none
      done := true
      agenda := s.agenda.tail }

/-- R89, R90: on the engine's turn MR_INIT of an odd `n >= 5` leaves the verdict open at 1 and loads the odd part and
the shift count of `n - 1`; within W bits the shift count is at most W - 1 and the odd part below `n` (R13, R29). -/
def Obligations.MrInitDecomposes : Prop :=
  ∀ (s : State) (a d n : Nat), s.engineTurn = true → s.pend = some ⟨.mrInit, a, d, n⟩ → n % 2 = 1 → 5 ≤ n →
    ∃ r k, r % 2 = 1 ∧ 1 ≤ k ∧ n - 1 = 2 ^ k * r ∧ r < n ∧ (n < 2 ^ s.build.w → k ≤ s.build.w - 1) ∧
      exec .mrInit s = .next { s with
        mrn := n
        mry := 0
        mrRounds := 0#32
        mrInit := true
        mrDecided := false
        mrVerdict := true
        mrr := r
        mrS := BitVec.ofNat 32 k
        pend := none
        done := true
        agenda := s.agenda.tail }

/-- R91, R93, R94: on the engine's turn a round passes when `a^r` or one of its squarings before the last reaches
`n - 1`, or `a^r` is 1: MRY takes that 1 or `n - 1`, MR_ROUNDS counts and saturates, the verdict stays, and the
command completes. -/
def Obligations.RoundPasses : Prop :=
  ∀ (s : State) (a d n : Nat), s.engineTurn = true → s.pend = some ⟨.mrRound, a, d, n⟩ →
    5 ≤ s.mrn → 1 ≤ s.mrS.toNat →
    (a ^ s.mrr % s.mrn = 1 ∨ ∃ j < s.mrS.toNat, a ^ (2 ^ j * s.mrr) % s.mrn = s.mrn - 1) →
    exec .mrRound s = .next { s with
      mry := if a ^ s.mrr % s.mrn = 1 then 1 else s.mrn - 1
      mrRounds := BitVec.ofNat 32 (min (s.mrRounds.toNat + 1) 0xFFFFFFFF)
      pend := none
      done := true
      agenda := s.agenda.tail }

/-- R91, R93, R94: on the engine's turn every other round fails: MRY takes the last square, MR_ROUNDS counts and
saturates, and the verdict is decided 0. -/
def Obligations.RoundFails : Prop :=
  ∀ (s : State) (a d n : Nat), s.engineTurn = true → s.pend = some ⟨.mrRound, a, d, n⟩ →
    5 ≤ s.mrn → 1 ≤ s.mrS.toNat →
    ¬ (a ^ s.mrr % s.mrn = 1 ∨ ∃ j < s.mrS.toNat, a ^ (2 ^ j * s.mrr) % s.mrn = s.mrn - 1) →
    exec .mrRound s = .next { s with
      mry := a ^ (2 ^ (s.mrS.toNat - 1) * s.mrr) % s.mrn
      mrRounds := BitVec.ofNat 32 (min (s.mrRounds.toNat + 1) 0xFFFFFFFF)
      mrDecided := true
      mrVerdict := false
      pend := none
      done := true
      agenda := s.agenda.tail }

/-- R97: on the engine's turn MR_CLEAR sets the whole context to 0 and completes; RES and the operands stay. -/
def Obligations.MrClearEmptiesTheContext : Prop :=
  ∀ (s : State) (a d n : Nat), s.engineTurn = true → s.pend = some ⟨.mrClear, a, d, n⟩ →
    exec .mrClear s = .next { s with
      mrn := 0
      mrr := 0
      mry := 0
      mrS := 0#32
      mrRounds := 0#32
      mrInit := false
      mrDecided := false
      mrVerdict := false
      pend := none
      done := true
      agenda := s.agenda.tail }

/-- The frame of the Miller-Rabin commands in both halves: RES, the operands and the enables stay; of the bytes of the
aperture they change those of STATUS, CMD and the context at most. The issue half leaves the context too; the engine
half leaves ERR, ERRCODE and CMDLAST, and for MR_ROUND the candidate, its decomposition and MR_INIT. -/
def Obligations.MillerRabinFrame : Prop :=
  ∀ s t i, (i = .mrInit ∨ i = .mrRound ∨ i = .mrClear) → exec i s = .next t →
    s.SameOperands t ∧ t.res = s.res ∧
    s.SameBytesOutside (fun off => commandBytes off ∨ contextBytes off) t ∧
    (s.engineTurn = false → s.SameResults t) ∧
    (s.engineTurn = true → t.err = s.err ∧ t.errcode = s.errcode ∧ t.cmdLast = s.cmdLast) ∧
    (i = .mrRound → t.mrn = s.mrn ∧ t.mrr = s.mrr ∧ t.mrS = s.mrS ∧ t.mrInit = s.mrInit)

/-- The frame of NOP off the engine's turn: nothing but DONE, ERR, ERRCODE and CMDLAST changes, and of the bytes of
the aperture those of STATUS and CMD at most. -/
def Obligations.NopFrame : Prop :=
  ∀ s t, s.engineTurn = false → exec .nop s = .next t →
    s.SameOperands t ∧ s.SameResults t ∧ t.pend = s.pend ∧ s.SameBytesOutside commandBytes t

/-- R101: the engine's turn of MR_ROUND reads neither the live operand registers nor the snapshots of OPD and OPN:
with any others, it does the same. -/
def Obligations.RoundIgnoresLiveOperands : Prop :=
  ∀ (s t : State) (a d n d' n' x y z : Nat), s.engineTurn = true → s.pend = some ⟨.mrRound, a, d, n⟩ →
    exec .mrRound s = .next t →
    exec .mrRound { s with pend := some ⟨.mrRound, a, d', n'⟩, opa := x, opd := y, opn := z } =
      .next { t with opa := x, opd := y, opn := z }

/-- R100: a prime candidate passes every round: in a state of the invariant with a round in flight on a prime, the
engine's turn leaves the verdict open at 1. -/
def Obligations.PrimePassesEveryRound : Prop :=
  ∀ (s : State) (a d n : Nat), s.Inv → s.engineTurn = true → s.pend = some ⟨.mrRound, a, d, n⟩ → s.mrn.Prime →
    ∃ t, exec .mrRound s = .next t ∧ t.mrVerdict = true ∧ t.mrDecided = false

/-- R93: a round whose witness shares a factor with the candidate always fails. -/
def Obligations.SharedFactorFails : Prop :=
  ∀ (s : State) (a d n : Nat), s.Inv → s.engineTurn = true → s.pend = some ⟨.mrRound, a, d, n⟩ →
    1 < Nat.gcd a s.mrn →
    ∃ t, exec .mrRound s = .next t ∧ t.mrVerdict = false ∧ t.mrDecided = true

/-- R27, R94: once the verdict is decided it stays until MR_INIT or MR_CLEAR completes or the block is reset. -/
def Obligations.DecidedVerdictStays : Prop :=
  ∀ s t, s.Inv → step s = .next t → s.mrDecided = true →
    (∀ e ∈ s.agenda.head?, e.isReset = false) →
    (∀ c ∈ s.pend, c.op ≠ .mrInit ∧ c.op ≠ .mrClear) →
    t.mrDecided = true ∧ t.mrVerdict = s.mrVerdict

/-- R34, R95: MR_ROUNDS becomes 0 by a reset and by the completion of MR_INIT or MR_CLEAR; the completion of MR_ROUND
adds 1 to it and stays at 0xFFFF_FFFF; no other step changes it. So it never wraps: a step that is neither a reset nor
the completion of MR_INIT or MR_CLEAR does not lower it, and leaves it at 0xFFFF_FFFF if it is there. An empty agenda
makes the completion of a command in flight the next step (log 3). -/
def Obligations.RoundCounterNeverWraps : Prop :=
  ∀ s t, step s = .next t →
    ((∃ e ∈ s.agenda.head?, e.isReset = true) ∨ s.Completes .mrInit ∨ s.Completes .mrClear → t.mrRounds = 0#32) ∧
    (s.Completes .mrRound → t.mrRounds.toNat = min (s.mrRounds.toNat + 1) 0xFFFFFFFF) ∧
    (¬ (∃ e ∈ s.agenda.head?, e.isReset = true) → ¬ s.Completes .mrInit → ¬ s.Completes .mrClear →
      (¬ s.Completes .mrRound → t.mrRounds = s.mrRounds) ∧ s.mrRounds.toNat ≤ t.mrRounds.toNat ∧
        (s.mrRounds = 0xFFFFFFFF#32 → t.mrRounds = 0xFFFFFFFF#32))

/-- R98: the host's `IsPrime` procedure, run on the bus of an idle block with its own number of polls in each WAIT
(`polls` in the first, the second component of each draw in that draw's), returns 1 exactly when the pre-checks settle
`n` as prime, or `n` is odd, at least 5, and passes for every drawn witness. -/
def Obligations.HostIsPrimeDecidesByItsRounds : Prop :=
  ∀ (s : State) (polls n : Nat) (draws : List (Nat × Nat)), s.Inv → s.pend = none → n < 2 ^ s.build.w →
    (n % 2 = 1 → 5 ≤ n → ∀ x ∈ draws, 2 ≤ x.1 ∧ x.1 + 2 ≤ n) →
    ∃ t, s.hostIsPrime polls n draws = .next t ∧
      (t.mrVerdict = true ↔ n = 2 ∨ n = 3 ∨ n % 2 = 1 ∧ 5 ≤ n ∧ ∀ x ∈ draws, StrongPass x.1 n)

/-! ### Results and operands over every step -/

/-- R79: RES and the context change only in the engine's step, in reset and in soft reset. -/
def Obligations.ResultsChangeOnlyAtCompletion : Prop :=
  ∀ s t e rest, s.agenda = e :: rest → e.mayChangeResults = false → step s = .next t → s.SameResults t

/-- R71: a write to an operand window commutes with the engine's step of the command in flight: the snapshot was taken
at acceptance. -/
def Obligations.OperandWritesDoNotReachTheCommandInFlight : Prop :=
  ∀ (s t : State) c off v rest, s.pend = some c → 0x400 ≤ off → off < 0x1000 → off % 4 = 0 →
    Sys2Proof.core.run 2 ({ s with agenda := .engine :: Script.wr off v :: rest } : State) = .next t →
    Sys2Proof.core.run 2 ({ s with agenda := Script.wr off v :: .engine :: rest } : State) = .next t

/-- R5, R16, R17: no step changes the build, so ID and PARAM read the same for ever. -/
def Obligations.BuildNeverChanges : Prop :=
  ∀ s t, step s = .next t → t.build = s.build ∧ t.csrWord .id = 0x4D580007#32 ∧ t.csrWord .param = s.csrWord .param

/-- R22, R106: while ERR is 1 a step keeps ERR and ERRCODE, unless it resets the block or clears ERR. -/
def Obligations.FirstErrorCodeIsKept : Prop :=
  ∀ s t, step s = .next t → s.err = true → (∀ e ∈ s.agenda.head?, e.mayClearErr = false) →
    t.err = true ∧ t.errcode = s.errcode

/-! ### The bus (20_memory.md, 10_state.md) -/

/-- R47, R50: an admitted read returns the word of its target and changes no register. -/
def Obligations.ReadsHaveNoSideEffect : Prop :=
  ∀ s off rest, s.agenda = Script.rd off :: rest → off % 4 = 0 → (off < 0x020 ∨ 0x400 ≤ off ∧ off < 0x2000) →
    step s = .next { s with answer := some (.read (s.targetWord (locate off)) .okay), agenda := rest }

/-- R44: the value that a read of each register of offsets 0x000 to 0x01C returns, as a number (R16 to R19, R24, R25,
R29, R34), with the nine codes of R103 in bits 11 to 8 of STATUS. -/
def Obligations.RegisterMapReads : Prop :=
  ∀ s : State, ∀ word : Nat → Nat, (∀ off, word off = (s.targetWord (locate off)).toNat) →
    word 0x000 = 0x4D580007 ∧
    word 0x004 = s.build.nw % 65536 ∧
    word 0x008 = s.ieDone.toNat + 2 * s.ieErr.toNat ∧
    (∃ code, (s.errcode, code) ∈ [(ErrCode.none, 0x0), (.busy, 0x1), (.opcode, 0x2), (.rsvd, 0x3), (.modZero, 0x4),
        (.noInit, 0x5), (.decided, 0x6), (.witness, 0x7), (.abort, 0x8)] ∧
      word 0x00C = s.busy.toNat + 2 * s.done.toNat + 4 * s.err.toNat + 8 * s.irq.toNat + 256 * code) ∧
    word 0x010 = s.cmdLast.toNat ∧
    word 0x014 = s.mrInit.toNat + 2 * s.mrDecided.toNat + 4 * s.mrVerdict.toNat ∧
    word 0x018 = s.mrS.toNat ∧
    word 0x01C = s.mrRounds.toNat

/-- R42, R44, R45: each window lies at the offset of the map and shows its register: word `i` is bits 32i+31 to 32i
of it, and 0 at and above NW. The other statements' names for a window's offset, value and words agree with that. -/
def Obligations.WindowWordsAreTheRegister : Prop :=
  ∀ (s : State) (x : Window) (base value : Nat),
    (x, base, value) ∈ [(Window.opa, 0x400, s.opa), (.opd, 0x800, s.opd), (.opn, 0xC00, s.opn), (.res, 0x1000, s.res),
      (.mrn, 0x1400, s.mrn), (.mrr, 0x1800, s.mrr), (.mry, 0x1C00, s.mry)] →
    Script.windowBase x = base ∧ s.windowValue x = value ∧
      ∀ i < 256, s.targetWord (locate (base + 4 * i)) = s.windowWord x i ∧
        (s.targetWord (locate (base + 4 * i))).toNat =
          if i < s.build.nw then value / 2 ^ (32 * i) % 2 ^ 32 else 0

/-- R42: the words of a W-bit register, least significant first, make up its value. -/
def Obligations.WordsRebuildTheRegister : Prop :=
  ∀ x nw : Nat, x < 2 ^ (32 * nw) → (∑ i ∈ Finset.range nw, (wordAt x i).toNat * 2 ^ (32 * i)) = x

/-- R40, R44, R46, R104: an access to the reserved range or outside the aperture (log 7) gets DECERR; any other that is
not an aligned 4-byte one, or that is a write with a strobe missing, gets SLVERR; a read returns 0, and no register
changes. Which range an access across a boundary belongs to is the model's reading (log 8): that of its first byte. -/
def Obligations.BusErrorsChangeNothing : Prop :=
  ∀ s off size strobes v rest,
    (0x020 ≤ off ∧ off < 0x400 ∨ 0x2000 ≤ off →
      (s.agenda = .read off size :: rest →
        step s = .next { s with answer := some (.read 0#32 .decerr), agenda := rest }) ∧
      (s.agenda = .write off size strobes v :: rest →
        step s = .next { s with answer := some (.write .decerr), agenda := rest })) ∧
    (off < 0x020 ∨ 0x400 ≤ off ∧ off < 0x2000 →
      (size ≠ 4 ∨ off % 4 ≠ 0 → s.agenda = .read off size :: rest →
        step s = .next { s with answer := some (.read 0#32 .slverr), agenda := rest }) ∧
      (size ≠ 4 ∨ off % 4 ≠ 0 ∨ strobes ≠ 0xF#4 → s.agenda = .write off size strobes v :: rest →
        step s = .next { s with answer := some (.write .slverr), agenda := rest }))

/-- R46: an aligned 4-byte write to the block with a strobe missing gets SLVERR and has no effect. -/
def Obligations.PartialStrobesAreRefused : Prop :=
  ∀ s off strobes v rest, s.agenda = .write off 4 strobes v :: rest → off % 4 = 0 →
    (off < 0x020 ∨ 0x400 ≤ off ∧ off < 0x2000) → strobes ≠ 0xF#4 →
    step s = .next { s with answer := some (.write .slverr), agenda := rest }

/-- R48: a word written to an operand register reads back, every other word of every window stays, and every byte of
the aperture outside the four written ones stays; no register but that operand changes. -/
def Obligations.OperandWordWrite : Prop :=
  ∀ s x i v rest, s.agenda = Script.wr (Script.windowBase x + 4 * i) v :: rest → x.isOperand = true →
    i < s.build.nw → i < 256 →
    ∃ t, step s = .next t ∧ t.windowWord x i = v ∧
      (∀ y j, ¬ (y = x ∧ j = i) → t.windowWord y j = s.windowWord y j) ∧
      s.SameBytesOutside (fun off => Script.windowBase x + 4 * i ≤ off ∧ off < Script.windowBase x + 4 * i + 4) t ∧
      t = { s with opa := t.opa, opd := t.opd, opn := t.opn, answer := some (.write .okay), agenda := rest }

/-- R45, R49: a write to a read-only register or window, or to a window word at or above NW, gets OKAY and changes
nothing; nor do the reserved bits of a write to CTRL (31 to 4) or STATUS (31 to 12, 7 to 4) or its read-only bits. -/
def Obligations.IgnoredWritesAnswerOkay : Prop :=
  (∀ s off v rest, s.agenda = Script.wr off v :: rest → off % 4 = 0 →
    ((∃ r, locate off = .csr r ∧ r.isReadOnly = true) ∨
      (∃ x i, locate off = .window x i ∧ (x.isOperand = false ∨ s.build.nw ≤ i))) →
    step s = .next { s with answer := some (.write .okay), agenda := rest }) ∧
  (∀ (s : State) (v w : Word) (rest : List Event), v &&& 0xF#32 = w &&& 0xF#32 →
    step { s with agenda := Script.wr 0x008 v :: rest } = step { s with agenda := Script.wr 0x008 w :: rest }) ∧
  (∀ (s : State) (v w : Word) (rest : List Event), v &&& 0x6#32 = w &&& 0x6#32 →
    step { s with agenda := Script.wr 0x00C v :: rest } = step { s with agenda := Script.wr 0x00C w :: rest })

/-- R67: `LD X, value` on a legal build sets the whole operand register, whatever it held, and nothing else. -/
def Obligations.LoadSetsTheOperand : Prop :=
  ∀ (s : State) (x : Window) (value : Nat) (rest : List Event), s.build.legal = true → s.RegsFit →
    x.isOperand = true → value < 2 ^ s.build.w → s.agenda = Script.ld s.build.nw x value ++ rest →
    ∃ t, Sys2Proof.core.run s.build.nw s = .next t ∧ t.windowValue x = value ∧
      (∀ y, y ≠ x → t.windowValue y = s.windowValue y) ∧
      t = { s with opa := t.opa, opd := t.opd, opn := t.opn, answer := some (.write .okay), agenda := rest }

/-- R18, R113: a write of CTRL without SRST sets the enables to bits 0 and 1; with ABORT it then discards a command in
flight with E_ABORT and DONE, and leaves an idle block otherwise alone. -/
def Obligations.CtrlWriteSetsEnablesAndAborts : Prop :=
  ∀ s v rest, s.agenda = Script.wr 0x008 v :: rest → v.getLsbD 3 = false →
    (v.getLsbD 2 = true → ∀ c, s.pend = some c →
      step s = .next { s with
        ieDone := v.getLsbD 0
        ieErr := v.getLsbD 1
        pend := none
        done := true
        err := true
        errcode := if s.err then s.errcode else .abort
        answer := some (.write .okay)
        agenda := rest }) ∧
    (v.getLsbD 2 = false ∨ s.pend = none →
      step s = .next { s with
        ieDone := v.getLsbD 0
        ieErr := v.getLsbD 1
        answer := some (.write .okay)
        agenda := rest })

/-- R19: a write of STATUS clears DONE by bit 1 and ERR with ERRCODE by bit 2, and nothing else. -/
def Obligations.StatusWriteClears : Prop :=
  ∀ s v rest, s.agenda = Script.wr 0x00C v :: rest →
    step s = .next { s with
      done := s.done && !v.getLsbD 1
      err := s.err && !v.getLsbD 2
      errcode := if v.getLsbD 2 then .none else s.errcode
      answer := some (.write .okay)
      agenda := rest }

/-! ### Interrupt and errors (60_exceptions.md) -/

/-- R109, R110: irq is high exactly when an enabled source is pending; a write of CTRL that only masks or unmasks
leaves the pending bits and moves the line at once. -/
def Obligations.InterruptLineFollowsItsSources : Prop :=
  ∀ s v rest, (s.irq = true ↔ s.done = true ∧ s.ieDone = true ∨ s.err = true ∧ s.ieErr = true) ∧
    (s.agenda = Script.wr 0x008 v :: rest → v.getLsbD 3 = false → v.getLsbD 2 = false →
      ∃ t, step s = .next t ∧ t.done = s.done ∧ t.err = s.err ∧
        (t.irq = true ↔ s.done = true ∧ v.getLsbD 0 = true ∨ s.err = true ∧ v.getLsbD 1 = true))

/-- R106: recording an error sets ERR, sets ERRCODE only if ERR was 0, and changes nothing else. -/
def Obligations.RaiseRecordsTheFirstError : Prop :=
  ∀ (e : ErrCode) (s : State),
    (s.err = false → s.raise e = { s with err := true, errcode := e }) ∧
    (s.err = true → s.raise e = s)

/-- R12, R81 (log 9): `exec` stops exactly on the engine's turn of POWMOD with snapshot modulus 0 and of MR_ROUND with
MRN = 0, with the fault `modulusZero`; it never refuses a command. -/
def Obligations.OnlyAZeroModulusStops : Prop :=
  ∀ (i : Instr) (s : State),
    (∀ f, exec i s = .fault f ↔ s.engineTurn = true ∧ ∃ c, s.pend = some c ∧ c.op = i ∧
      (i = .powmod ∧ c.n = 0 ∨ i = .mrRound ∧ s.mrn = 0)) ∧
    (∀ r, exec i s ≠ .refused r)

/-! ### Reset (70_reset_and_hazards.md) -/

/-- R120: what the reset state of every build reads as. -/
def Obligations.ResetReadsAsTheTable : Prop :=
  ∀ b : Build, ∀ s, s = State.resetOf b →
    s.csrWord .id = 0x4D580007#32 ∧ s.csrWord .param = BitVec.ofNat 32 (b.nw % 65536) ∧ s.csrWord .ctrl = 0#32 ∧
    s.csrWord .status = 0#32 ∧ s.csrWord .cmd = 0#32 ∧ s.csrWord .mrStatus = 0#32 ∧ s.csrWord .mrS = 0#32 ∧
    s.csrWord .mrRounds = 0#32 ∧ (∀ x i, s.windowWord x i = 0#32) ∧ s.irq = false ∧ s.pend = none

/-- R119, R121, R122: a pulse of rst_n, and a write of CTRL with SRST set whatever its other bits, put the block in
the reset state of its build, with a command in flight discarded; the write is answered OKAY. -/
def Obligations.ResetsReachTheResetState : Prop :=
  ∀ s rest,
    (s.agenda = .hwReset :: rest → ∃ x, step s = .next { State.start s.build rest with answer := x }) ∧
    (∀ v, s.agenda = Script.wr 0x008 v :: rest → v.getLsbD 3 = true →
      step s = .next { State.start s.build rest with answer := some (.write .okay) })

/-- R123: neither reset changes ID or PARAM, or depends on anything but the build (what is left of the agenda and the
port's last answer are the model's own, log 11); resetting twice gives the same state as resetting once. -/
def Obligations.ResettingTwiceIsResettingOnce : Prop :=
  (∀ s : State, ∀ r, r = .id ∨ r = .param →
    s.toReset.csrWord r = s.csrWord r ∧ s.hardReset.csrWord r = s.csrWord r) ∧
  (∀ s t : State, s.build = t.build → ∀ l x,
    ({ s.hardReset with agenda := l, answer := x } : State) = { t.toReset with agenda := l, answer := x }) ∧
  (∀ s : State, s.hardReset.hardReset = s.hardReset ∧ s.toReset.toReset = s.toReset ∧
    s.toReset.hardReset = s.hardReset ∧ s.hardReset.toReset = s.hardReset)

/-! ### The machine as a whole -/

/-- The invariant holds at reset, for every legal build and for the build of `State.reset`. -/
def Obligations.ResetMeetsTheInvariant : Prop :=
  (∀ b : Build, b.legal = true → (State.resetOf b).Inv) ∧ State.reset.Inv

/-- Every step keeps the invariant: registers within W bits (R13), ERR and ERRCODE together (R22), the context in a
shape of R88, and a command in flight as its acceptance left it (R92, R128). -/
def Obligations.StepKeepsTheInvariant : Prop :=
  ∀ s t, s.Inv → step s = .next t → t.Inv

/-- R75: from a state of the invariant a step always gives a next state: the engine is never stuck and nothing is
refused. -/
def Obligations.InvariantStatesNeverStop : Prop :=
  ∀ s, s.Inv → SafeStep s

/-- R88, R64, R75: every run of every legal build from reset, whatever the host and the engine do in whatever order,
goes on for any number of steps, and the context is then in one of the three shapes of R88. -/
def Obligations.RunsFromResetGoOn : Prop :=
  ∀ (b : Build) (agenda : List Event) (k : Nat), b.legal = true →
    ∃ t, Sys2Proof.core.run k (State.start b agenda) = .next t ∧ State.Inv t ∧ State.ContextOk t

/-- R128: in every state of a run from reset, DONE is 0 while a command is in flight. -/
def Obligations.DoneIsLowWhileBusy : Prop :=
  ∀ (b : Build) (agenda : List Event) (k : Nat) (t : State), b.legal = true →
    Sys2Proof.core.run k (State.start b agenda) = .next t → t.busy = true → t.done = false

/-- R131 (log 3): after the host's transactions are over the command in flight completes: one step more than the
agenda has entries, and the block is idle. -/
def Obligations.EveryCommandCompletes : Prop :=
  ∀ s : State, s.Inv →
    ∃ t, Sys2Proof.core.run (s.agenda.length + 1) s = .next t ∧ State.busy t = false ∧ State.agenda t = []

/-- R57, R48: W-bit integers enter and leave the block through their windows and in no other way. In: a step leaves
an operand register, or resets it to 0, or is an admitted write of one of its words at its window, which takes the
written word and leaves the register's other words. Out: no read outside the windows and no level of irq depends on
what a W-bit register holds. -/
def Obligations.WBitValuesPassOnlyThroughTheWindows : Prop :=
  (∀ s t, step s = .next t → ∀ x : Window, x.isOperand = true →
    t.windowValue x = s.windowValue x ∨
    (∃ e ∈ s.agenda.head?, e.isReset = true) ∧ t.windowValue x = 0 ∨
    ∃ i off size strobes v rest, s.agenda = .write off size strobes v :: rest ∧
      respOf off size (fullStrobes strobes) = .okay ∧ off = Script.windowBase x + 4 * i ∧ i < s.build.nw ∧
      t.windowWord x i = v ∧ ∀ j, j ≠ i → t.windowWord x j = s.windowWord x j) ∧
  (∀ (s t : State) (a d n res mrn mrr mry : Nat),
    t = { s with opa := a, opd := d, opn := n, res := res, mrn := mrn, mrr := mrr, mry := mry } →
    t.irq = s.irq ∧
      ∀ off size, off < 0x400 ∨ 0x2000 ≤ off → t.busRead off size = s.busRead off size)

end
end

