-- ==== Sys2Proof/Laws/Arith.lean ====
section
/-! SUPPORT. What the loops of the engine compute, one lemma per loop: the bit length that bounds them, the halving
loop of MR_INIT, the squaring loop of MR_ROUND, and the saturating counter. -/

namespace Sys2Proof.Machine

@[simp] theorem bitlen_zero : bitlen 0 = 0 := rfl

/-- One halving takes one bit off. -/
theorem bitlen_half {e : Nat} (h : 0 < e) : bitlen e = bitlen (e / 2) + 1 := by
  unfold bitlen
  rw [Nat.log2_def e]
  by_cases h2 : 2 ≤ e
  · have : e / 2 ≠ 0 := by omega
    simp [h2, this]; omega
  · have : e = 1 := by omega
    subst this; simp

/-- One turn of the square-and-multiply loop of 41_powmod.md R82. -/
theorem powLoop_succ (n fuel e v p : Nat) (he : 0 < e) :
    powLoop n (fuel + 1) e v p = powLoop n fuel (e / 2) (if e % 2 = 1 then v * p % n else v) (p * p % n) := by
  simp [powLoop, he]

/-- The loop is over once the exponent is 0. -/
@[simp] theorem powLoop_zero_exponent (n fuel v p : Nat) : powLoop n fuel 0 v p = v := by
  cases fuel <;> simp [powLoop]

/-- The halving loop splits its argument into a power of two, which the shift count gains, and an odd part. -/
theorem halveLoop_spec : ∀ (fuel r s : Nat), 0 < r → bitlen r ≤ fuel →
    ∃ q k, halveLoop fuel r s = (q, s + k) ∧ q % 2 = 1 ∧ r = 2 ^ k * q := by
  intro fuel
  induction fuel with
  | zero =>
    intro r s hr h
    have := bitlen_half hr
    omega
  | succ f ih =>
    intro r s hr h
    by_cases h2 : r % 2 = 0
    · obtain ⟨q, k, h1, h3, h4⟩ := ih (r / 2) (s + 1) (by omega) (by have := bitlen_half hr; omega)
      refine ⟨q, k + 1, ?_, h3, ?_⟩
      · simp [halveLoop, h2, h1]; omega
      · rw [pow_succ]
        have : r = 2 * (r / 2) := by omega
        rw [this, h4]; ring
    · exact ⟨r, 0, by simp [halveLoop, h2], by omega, by simp⟩

/-- What MR_INIT loads for a candidate that the pre-checks settle (42_miller_rabin.md R90). -/
theorem mrLoad_settled {n : Nat} (h : n = 2 ∨ n = 3 ∨ n % 2 = 0 ∨ n < 2) :
    mrLoad n = ⟨true, decide (n = 2 ∨ n = 3), 0, 0⟩ := by
  unfold mrLoad
  by_cases h1 : n = 2 ∨ n = 3
  · simp [h1]
  · have h2 : n % 2 = 0 ∨ n < 2 := by omega
    rw [if_neg h1, if_pos h2]
    simp [h1]

/-- What MR_INIT loads for any other candidate (42_miller_rabin.md R90). -/
theorem mrLoad_odd {n : Nat} (ho : n % 2 = 1) (h5 : 5 ≤ n) :
    ∃ r k, mrLoad n = ⟨false, true, r, k⟩ ∧ r % 2 = 1 ∧ 1 ≤ k ∧ n - 1 = 2 ^ k * r := by
  obtain ⟨q, k, h1, h2, h3⟩ := halveLoop_spec (bitlen (n - 1)) (n - 1) 0 (by omega) le_rfl
  refine ⟨q, k, ?_, h2, ?_, h3⟩
  · have a1 : ¬ (n = 2 ∨ n = 3) := by omega
    have a2 : ¬ (n % 2 = 0 ∨ n < 2) := by omega
    simp only [mrLoad, a1, a2, if_false, h1]
    simp
  · rcases Nat.eq_zero_or_pos k with h0 | h0
    · subst h0; simp at h3; omega
    · exact h0

/-- Squaring a power of the witness modulo `n` doubles its exponent. -/
theorem sq_chain {n : Nat} (a r j : Nat) : (a ^ (2 ^ j * r) % n) * (a ^ (2 ^ j * r) % n) % n = a ^ (2 ^ (j + 1) * r) % n := by
  rw [← Nat.mul_mod, ← pow_add]; congr 2; ring

/-- Once 1, every later square is 1. -/
theorem pow_one_of_one {n : Nat} (h1 : 1 < n) {a r j : Nat} (h : a ^ (2 ^ j * r) % n = 1) {m : Nat} (hm : j ≤ m) :
    a ^ (2 ^ m * r) % n = 1 := by
  obtain ⟨d, rfl⟩ := Nat.exists_eq_add_of_le hm
  have : 2 ^ (j + d) * r = (2 ^ j * r) * 2 ^ d := by rw [pow_add]; ring
  rw [this, pow_mul, Nat.pow_mod, h, one_pow, Nat.mod_eq_of_lt h1]

/-- After `n - 1`, every later square is 1. -/
theorem pow_one_of_neg_one {n : Nat} (h1 : 1 < n) {a r j : Nat} (h : a ^ (2 ^ j * r) % n = n - 1) {m : Nat} (hm : j < m) :
    a ^ (2 ^ m * r) % n = 1 := by
  apply pow_one_of_one h1 (j := j + 1) _ hm
  rw [← sq_chain, h]
  obtain ⟨q, rfl⟩ : ∃ q, n = q + 2 := ⟨n - 2, by omega⟩
  have : (q + 2 - 1) * (q + 2 - 1) = 1 + (q + 2) * q := by
    rw [show q + 2 - 1 = q + 1 from rfl]; ring
  rw [this, Nat.add_mul_mod_self_left, Nat.mod_eq_of_lt h1]

/-- The squaring loop of a round (42_miller_rabin.md R93), started at the `j`-th square of `a^r` that is neither 1 nor
`n - 1`: it stops at `n - 1` if one of the next `k` squares is `n - 1`, and otherwise ends on the last of them. -/
theorem squareLoop_spec {n : Nat} (h3 : 3 ≤ n) (a r : Nat) :
    ∀ (k j : Nat), a ^ (2 ^ j * r) % n ≠ 1 → a ^ (2 ^ j * r) % n ≠ n - 1 →
      (∃ m, j < m ∧ m ≤ j + k ∧ a ^ (2 ^ m * r) % n = n - 1 ∧ squareLoop n k (a ^ (2 ^ j * r) % n) = .stopped (n - 1)) ∨
      ((∀ m, m ≤ j + k → j ≤ m → a ^ (2 ^ m * r) % n ≠ n - 1) ∧
        (squareLoop n k (a ^ (2 ^ j * r) % n) = .becameOne ∧ a ^ (2 ^ (j + k) * r) % n = 1 ∨
         squareLoop n k (a ^ (2 ^ j * r) % n) = .stopped (a ^ (2 ^ (j + k) * r) % n))) := by
  intro k
  induction k with
  | zero =>
    intro j h1 h2
    right
    refine ⟨fun m hm hj => ?_, .inr rfl⟩
    have : m = j := by omega
    subst this; exact h2
  | succ k ih =>
    intro j h1 h2
    simp only [squareLoop, sq_chain]
    by_cases e1 : a ^ (2 ^ (j + 1) * r) % n = 1
    · right
      refine ⟨fun m hm hj => ?_, .inl ⟨by simp [e1], pow_one_of_one (by omega) e1 (by omega)⟩⟩
      rcases Nat.lt_or_ge j m with h | h
      · rw [pow_one_of_one (by omega) e1 h]; omega
      · have : m = j := by omega
        subst this; exact h2
    · by_cases e2 : a ^ (2 ^ (j + 1) * r) % n = n - 1
      · left
        exact ⟨j + 1, by omega, by omega, e2, by rw [if_neg e1, if_pos e2, e2]⟩
      · rw [if_neg e1, if_neg e2]
        rcases ih (j + 1) e1 e2 with ⟨m, a1, a2, a3, a4⟩ | ⟨b1, b2⟩
        · exact .inl ⟨m, by omega, by omega, a3, a4⟩
        · right
          refine ⟨fun m hm hj => ?_, ?_⟩
          · rcases Nat.lt_or_ge j m with h | h
            · exact b1 m (by omega) h
            · have : m = j := by omega
              subst this; exact h2
          · have : j + 1 + k = j + (k + 1) := by omega
            rwa [this] at b2

/-- MR_ROUNDS counts up to 0xFFFF_FFFF and stays there (10_state.md R34). -/
theorem satSucc_toNat (c : Word) : (satSucc c).toNat = min (c.toNat + 1) 0xFFFFFFFF := by
  unfold satSucc
  split
  · next h => subst h; rfl
  · next h =>
    have hne : c.toNat ≠ 0xFFFFFFFF := fun e => h (BitVec.eq_of_toNat_eq e)
    have hlt := c.isLt
    simp; omega

end Sys2Proof.Machine
end

