-- ==== Sys2Proof/Laws/Operands.lean ====
section
/-! SUPPORT. Words of a W-bit register, and what an offset of the aperture selects. -/

namespace Sys2Proof.Machine

/-- The bits of a register after one of its words is written (20_memory.md R48). -/
theorem testBit_putWord (x i : Nat) (v : Word) (k : Nat) :
    (putWord x i v).testBit k =
      if k < 32 * i then x.testBit k
      else if k < 32 * (i + 1) then v.getLsbD (k - 32 * i)
      else x.testBit k := by
  have hv : v.toNat < 2 ^ 32 := v.isLt
  have e : putWord x i v =
      2 ^ (32 * i) * (2 ^ 32 * (x / 2 ^ (32 * (i + 1))) + v.toNat) + x % 2 ^ (32 * i) := by
    unfold putWord
    rw [show 32 * (i + 1) = 32 * i + 32 by ring, pow_add]; ring
  rw [e, Nat.testBit_two_pow_mul_add _ (Nat.mod_lt _ (by positivity)), Nat.testBit_two_pow_mul_add _ hv]
  by_cases h1 : k < 32 * i
  · simp [h1, Nat.testBit_mod_two_pow]
  · by_cases h2 : k < 32 * (i + 1)
    · have : k - 32 * i < 32 := by omega
      simp [h1, h2, this, BitVec.testBit_toNat]
    · have h3 : ¬ k - 32 * i < 32 := by omega
      simp only [h1, h2, h3, if_false, Nat.testBit_div_two_pow]
      congr 1; omega

/-- The bits of word `i` (20_memory.md R42). -/
theorem getLsbD_wordAt (x i k : Nat) : (wordAt x i).getLsbD k = (decide (k < 32) && x.testBit (32 * i + k)) := by
  simp [wordAt, BitVec.getLsbD_ofNat, Nat.testBit_div_two_pow, Nat.add_comm]

/-- The written word reads back. -/
theorem wordAt_putWord_same (x i : Nat) (v : Word) : wordAt (putWord x i v) i = v := by
  apply BitVec.eq_of_getLsbD_eq
  intro k hk
  rw [getLsbD_wordAt, testBit_putWord, if_neg (by omega), if_pos (by omega)]
  simp [hk]

/-- Every other word of the register is unchanged. -/
theorem wordAt_putWord_ne (x : Nat) {i j : Nat} (v : Word) (h : j ≠ i) :
    wordAt (putWord x i v) j = wordAt x j := by
  apply BitVec.eq_of_getLsbD_eq
  intro k hk
  rcases Nat.lt_or_gt_of_ne h with h | h
  · have h1 : 32 * j + k < 32 * i := by omega
    simp [getLsbD_wordAt, testBit_putWord, h1]
  · have h1 : ¬ 32 * j + k < 32 * i := by omega
    have h2 : ¬ 32 * j + k < 32 * (i + 1) := by omega
    simp [getLsbD_wordAt, testBit_putWord, h1, h2]

/-- Writing a word of the register keeps it within its width. -/
theorem putWord_lt {x i nw : Nat} (v : Word) (hx : x < 2 ^ (32 * nw)) (hi : i < nw) : putWord x i v < 2 ^ (32 * nw) := by
  apply Nat.lt_pow_two_of_testBit
  intro k hk
  have h1 : ¬ k < 32 * i := by omega
  have h2 : ¬ k < 32 * (i + 1) := by omega
  simp [testBit_putWord, h1, h2, Nat.testBit_lt_two_pow (Nat.lt_of_lt_of_le hx (Nat.pow_le_pow_right (by norm_num) hk))]

/-- The four offsets of word `i` of the window at `0x400 * k` select that word (20_memory.md R42, R44). -/
theorem locate_window {k i r : Nat} (x : Window) (hk : windowAt k = some x) (hi : i < 256) (hr : r < 4) :
    locate (0x400 * k + 4 * i + r) = .window x i := by
  have hk1 : 1 ≤ k ∧ k ≤ 7 := by
    unfold windowAt at hk
    split at hk <;> simp_all
  unfold locate
  have h1 : csrAt ((0x400 * k + 4 * i + r) / 4) = none := by
    unfold csrAt
    split <;> first | rfl | (exfalso; omega)
  have h2 : ¬ (0x400 * k + 4 * i + r < Config.windowSize) := by unfold Config.windowSize; omega
  have h3 : (0x400 * k + 4 * i + r) / Config.windowSize = k := by unfold Config.windowSize; omega
  have h4 : (0x400 * k + 4 * i + r) % Config.windowSize / 4 = i := by unfold Config.windowSize; omega
  simp only [h1, h2, h3, h4, hk, if_false]

/-- The reserved range (20_memory.md R44). -/
theorem locate_reserved {off : Nat} (h1 : 0x20 ≤ off) (h2 : off < 0x400) : locate off = .reserved := by
  unfold locate
  have h3 : csrAt (off / 4) = none := by
    unfold csrAt
    split <;> first | rfl | (exfalso; omega)
  simp [h3, Config.windowSize, h2]

/-- Offsets outside the aperture (20_memory.md R43). -/
theorem locate_outside {off : Nat} (h : 0x2000 ≤ off) : locate off = .outside := by
  unfold locate
  have h3 : csrAt (off / 4) = none := by
    unfold csrAt
    split <;> first | rfl | (exfalso; omega)
  have h4 : windowAt (off / 0x400) = none := by
    unfold windowAt
    split <;> first | rfl | (exfalso; omega)
  have h5 : ¬ off < 0x400 := by omega
  simp [h3, Config.windowSize, h4, h5]

/-- Every offset below 0x020 selects a register (20_memory.md R44). -/
theorem locate_csr {off : Nat} (h : off < 0x20) : ∃ r, locate off = .csr r := by
  unfold locate
  have h3 : ∃ r, csrAt (off / 4) = some r := by
    have : off / 4 < 8 := by omega
    interval_cases off / 4 <;> exact ⟨_, rfl⟩
  obtain ⟨r, hr⟩ := h3
  exact ⟨r, by simp [hr]⟩

/-- Every offset from 0x400 up to 0x2000 selects a word of a window (20_memory.md R44). -/
theorem locate_window_of_range {off : Nat} (h1 : 0x400 ≤ off) (h2 : off < 0x2000) :
    ∃ x i, locate off = .window x i ∧ windowAt (off / 0x400) = some x ∧ i = off % 0x400 / 4 := by
  have hk : ∃ x, windowAt (off / 0x400) = some x := by
    have h3 : 1 ≤ off / 0x400 := by omega
    have h4 : off / 0x400 < 8 := by omega
    interval_cases off / 0x400 <;> exact ⟨_, rfl⟩
  obtain ⟨x, hx⟩ := hk
  refine ⟨x, off % 0x400 / 4, ?_, hx, rfl⟩
  have := locate_window (k := off / 0x400) (i := off % 0x400 / 4) (r := off % 4) x hx (by omega) (by omega)
  rwa [show 0x400 * (off / 0x400) + 4 * (off % 0x400 / 4) + off % 4 = off by omega] at this

/-- The word index of each register (20_memory.md R44). -/
theorem csrAt_index {k : Nat} {r : Csr} (h : csrAt k = some r) :
    k = match r with
      | .id => 0
      | .param => 1
      | .ctrl => 2
      | .status => 3
      | .cmd => 4
      | .mrStatus => 5
      | .mrS => 6
      | .mrRounds => 7 := by
  unfold csrAt at h
  split at h <;> simp at h <;> subst h <;> rfl

/-- The place of each window (20_memory.md R44). -/
theorem windowAt_index {k : Nat} {x : Window} (h : windowAt k = some x) :
    k = match x with
      | .opa => 1
      | .opd => 2
      | .opn => 3
      | .res => 4
      | .mrn => 5
      | .mrr => 6
      | .mry => 7 := by
  unfold windowAt at h
  split at h <;> simp at h <;> subst h <;> rfl

/-- Where an offset that selects a register lies. -/
theorem csr_of_locate {off : Nat} {r : Csr} (h : locate off = .csr r) : off < 0x20 ∧ csrAt (off / 4) = some r := by
  by_cases h1 : off < 0x20
  · refine ⟨h1, ?_⟩
    unfold locate at h
    rcases hc : csrAt (off / 4) with _ | r'
    · rw [hc] at h; simp only at h
      split at h
      · simp at h
      · split at h <;> simp at h
    · rw [hc] at h; simpa using h
  · exfalso
    by_cases h2 : off < 0x400
    · rw [locate_reserved (by omega) h2] at h; simp at h
    · by_cases h3 : off < 0x2000
      · obtain ⟨x, i, hx, -, -⟩ := locate_window_of_range (off := off) (by omega) h3
        rw [hx] at h; simp at h
      · rw [locate_outside (by omega)] at h; simp at h

/-- Where an offset that selects a window word lies. -/
theorem window_of_locate {off i : Nat} {x : Window} (h : locate off = .window x i) :
    0x400 ≤ off ∧ off < 0x2000 ∧ windowAt (off / 0x400) = some x ∧ i = off % 0x400 / 4 := by
  by_cases h1 : off < 0x20
  · obtain ⟨r, hr⟩ := locate_csr h1
    rw [hr] at h; simp at h
  · by_cases h2 : off < 0x400
    · rw [locate_reserved (by omega) h2] at h; simp at h
    · by_cases h3 : off < 0x2000
      · obtain ⟨x', i', hx, h4, h5⟩ := locate_window_of_range (off := off) (by omega) h3
        rw [hx] at h; simp only [Target.window.injEq] at h
        obtain ⟨rfl, rfl⟩ := h
        exact ⟨by omega, h3, h4, h5⟩
      · rw [locate_outside (by omega)] at h; simp at h

/-- An aligned full word access to a register or a window is admitted (20_memory.md R46). -/
theorem respOf_word {off : Nat} (h1 : off < 0x20 ∨ 0x400 ≤ off) (h2 : off < 0x2000) (h3 : off % 4 = 0) :
    respOf off 4 true = .okay := by
  unfold respOf
  rcases h1 with h1 | h1
  · obtain ⟨r, hr⟩ := locate_csr h1
    simp [hr, h3]
  · obtain ⟨x, i, hx, -, -⟩ := locate_window_of_range h1 h2
    simp [hx, h3]

/-- The response to every access (20_memory.md R44, R46). -/
theorem respOf_cases (off size : Nat) (full : Bool) :
    respOf off size full =
      if (0x20 ≤ off ∧ off < 0x400) ∨ 0x2000 ≤ off then .decerr
      else if size = 4 ∧ off % 4 = 0 ∧ full = true then .okay else .slverr := by
  by_cases h : (0x20 ≤ off ∧ off < 0x400) ∨ 0x2000 ≤ off
  · rw [if_pos h]
    rcases h with h | h
    · simp [respOf, locate_reserved h.1 h.2]
    · simp [respOf, locate_outside h]
  · rw [if_neg h]
    by_cases h3 : off < 0x20
    · obtain ⟨r, hr⟩ := locate_csr h3
      simp only [respOf, hr]
    · obtain ⟨x, i, hx, -, -⟩ := locate_window_of_range (off := off) (by omega) (by omega)
      simp only [respOf, hx]

end Sys2Proof.Machine
end

