-- ==== Sys2Proof/Laws/State.lean ====
section
/-! SUPPORT. What each update of State does to each field: one `rfl` lemma per field per update, so that no proof
unfolds a record update. -/

namespace Sys2Proof.Machine

@[simp] theorem State.advance_build (s : State) : s.advance.build = s.build := rfl
@[simp] theorem State.advance_ieDone (s : State) : s.advance.ieDone = s.ieDone := rfl
@[simp] theorem State.advance_ieErr (s : State) : s.advance.ieErr = s.ieErr := rfl
@[simp] theorem State.advance_done (s : State) : s.advance.done = s.done := rfl
@[simp] theorem State.advance_err (s : State) : s.advance.err = s.err := rfl
@[simp] theorem State.advance_errcode (s : State) : s.advance.errcode = s.errcode := rfl
@[simp] theorem State.advance_cmdLast (s : State) : s.advance.cmdLast = s.cmdLast := rfl
@[simp] theorem State.advance_mrInit (s : State) : s.advance.mrInit = s.mrInit := rfl
@[simp] theorem State.advance_mrDecided (s : State) : s.advance.mrDecided = s.mrDecided := rfl
@[simp] theorem State.advance_mrVerdict (s : State) : s.advance.mrVerdict = s.mrVerdict := rfl
@[simp] theorem State.advance_mrS (s : State) : s.advance.mrS = s.mrS := rfl
@[simp] theorem State.advance_mrRounds (s : State) : s.advance.mrRounds = s.mrRounds := rfl
@[simp] theorem State.advance_opa (s : State) : s.advance.opa = s.opa := rfl
@[simp] theorem State.advance_opd (s : State) : s.advance.opd = s.opd := rfl
@[simp] theorem State.advance_opn (s : State) : s.advance.opn = s.opn := rfl
@[simp] theorem State.advance_res (s : State) : s.advance.res = s.res := rfl
@[simp] theorem State.advance_mrn (s : State) : s.advance.mrn = s.mrn := rfl
@[simp] theorem State.advance_mrr (s : State) : s.advance.mrr = s.mrr := rfl
@[simp] theorem State.advance_mry (s : State) : s.advance.mry = s.mry := rfl
@[simp] theorem State.advance_pend (s : State) : s.advance.pend = s.pend := rfl
@[simp] theorem State.advance_agenda (s : State) : s.advance.agenda = s.agenda.tail := rfl
@[simp] theorem State.advance_answer (s : State) : s.advance.answer = s.answer := rfl

@[simp] theorem State.respond_build (a : Answer) (s : State) : (s.respond a).build = s.build := rfl
@[simp] theorem State.respond_ieDone (a : Answer) (s : State) : (s.respond a).ieDone = s.ieDone := rfl
@[simp] theorem State.respond_ieErr (a : Answer) (s : State) : (s.respond a).ieErr = s.ieErr := rfl
@[simp] theorem State.respond_done (a : Answer) (s : State) : (s.respond a).done = s.done := rfl
@[simp] theorem State.respond_err (a : Answer) (s : State) : (s.respond a).err = s.err := rfl
@[simp] theorem State.respond_errcode (a : Answer) (s : State) : (s.respond a).errcode = s.errcode := rfl
@[simp] theorem State.respond_cmdLast (a : Answer) (s : State) : (s.respond a).cmdLast = s.cmdLast := rfl
@[simp] theorem State.respond_mrInit (a : Answer) (s : State) : (s.respond a).mrInit = s.mrInit := rfl
@[simp] theorem State.respond_mrDecided (a : Answer) (s : State) : (s.respond a).mrDecided = s.mrDecided := rfl
@[simp] theorem State.respond_mrVerdict (a : Answer) (s : State) : (s.respond a).mrVerdict = s.mrVerdict := rfl
@[simp] theorem State.respond_mrS (a : Answer) (s : State) : (s.respond a).mrS = s.mrS := rfl
@[simp] theorem State.respond_mrRounds (a : Answer) (s : State) : (s.respond a).mrRounds = s.mrRounds := rfl
@[simp] theorem State.respond_opa (a : Answer) (s : State) : (s.respond a).opa = s.opa := rfl
@[simp] theorem State.respond_opd (a : Answer) (s : State) : (s.respond a).opd = s.opd := rfl
@[simp] theorem State.respond_opn (a : Answer) (s : State) : (s.respond a).opn = s.opn := rfl
@[simp] theorem State.respond_res (a : Answer) (s : State) : (s.respond a).res = s.res := rfl
@[simp] theorem State.respond_mrn (a : Answer) (s : State) : (s.respond a).mrn = s.mrn := rfl
@[simp] theorem State.respond_mrr (a : Answer) (s : State) : (s.respond a).mrr = s.mrr := rfl
@[simp] theorem State.respond_mry (a : Answer) (s : State) : (s.respond a).mry = s.mry := rfl
@[simp] theorem State.respond_pend (a : Answer) (s : State) : (s.respond a).pend = s.pend := rfl
@[simp] theorem State.respond_agenda (a : Answer) (s : State) : (s.respond a).agenda = s.agenda := rfl
@[simp] theorem State.respond_answer (a : Answer) (s : State) : (s.respond a).answer = some a := rfl

@[simp] theorem State.raise_build (e : ErrCode) (s : State) : (s.raise e).build = s.build := rfl
@[simp] theorem State.raise_ieDone (e : ErrCode) (s : State) : (s.raise e).ieDone = s.ieDone := rfl
@[simp] theorem State.raise_ieErr (e : ErrCode) (s : State) : (s.raise e).ieErr = s.ieErr := rfl
@[simp] theorem State.raise_done (e : ErrCode) (s : State) : (s.raise e).done = s.done := rfl
@[simp] theorem State.raise_err (e : ErrCode) (s : State) : (s.raise e).err = true := rfl
@[simp] theorem State.raise_errcode (e : ErrCode) (s : State) : (s.raise e).errcode = if s.err then s.errcode else e := rfl
@[simp] theorem State.raise_cmdLast (e : ErrCode) (s : State) : (s.raise e).cmdLast = s.cmdLast := rfl
@[simp] theorem State.raise_mrInit (e : ErrCode) (s : State) : (s.raise e).mrInit = s.mrInit := rfl
@[simp] theorem State.raise_mrDecided (e : ErrCode) (s : State) : (s.raise e).mrDecided = s.mrDecided := rfl
@[simp] theorem State.raise_mrVerdict (e : ErrCode) (s : State) : (s.raise e).mrVerdict = s.mrVerdict := rfl
@[simp] theorem State.raise_mrS (e : ErrCode) (s : State) : (s.raise e).mrS = s.mrS := rfl
@[simp] theorem State.raise_mrRounds (e : ErrCode) (s : State) : (s.raise e).mrRounds = s.mrRounds := rfl
@[simp] theorem State.raise_opa (e : ErrCode) (s : State) : (s.raise e).opa = s.opa := rfl
@[simp] theorem State.raise_opd (e : ErrCode) (s : State) : (s.raise e).opd = s.opd := rfl
@[simp] theorem State.raise_opn (e : ErrCode) (s : State) : (s.raise e).opn = s.opn := rfl
@[simp] theorem State.raise_res (e : ErrCode) (s : State) : (s.raise e).res = s.res := rfl
@[simp] theorem State.raise_mrn (e : ErrCode) (s : State) : (s.raise e).mrn = s.mrn := rfl
@[simp] theorem State.raise_mrr (e : ErrCode) (s : State) : (s.raise e).mrr = s.mrr := rfl
@[simp] theorem State.raise_mry (e : ErrCode) (s : State) : (s.raise e).mry = s.mry := rfl
@[simp] theorem State.raise_pend (e : ErrCode) (s : State) : (s.raise e).pend = s.pend := rfl
@[simp] theorem State.raise_agenda (e : ErrCode) (s : State) : (s.raise e).agenda = s.agenda := rfl
@[simp] theorem State.raise_answer (e : ErrCode) (s : State) : (s.raise e).answer = s.answer := rfl

@[simp] theorem State.clearErr_build (s : State) : s.clearErr.build = s.build := rfl
@[simp] theorem State.clearErr_ieDone (s : State) : s.clearErr.ieDone = s.ieDone := rfl
@[simp] theorem State.clearErr_ieErr (s : State) : s.clearErr.ieErr = s.ieErr := rfl
@[simp] theorem State.clearErr_done (s : State) : s.clearErr.done = s.done := rfl
@[simp] theorem State.clearErr_err (s : State) : s.clearErr.err = false := rfl
@[simp] theorem State.clearErr_errcode (s : State) : s.clearErr.errcode = .none := rfl
@[simp] theorem State.clearErr_cmdLast (s : State) : s.clearErr.cmdLast = s.cmdLast := rfl
@[simp] theorem State.clearErr_mrInit (s : State) : s.clearErr.mrInit = s.mrInit := rfl
@[simp] theorem State.clearErr_mrDecided (s : State) : s.clearErr.mrDecided = s.mrDecided := rfl
@[simp] theorem State.clearErr_mrVerdict (s : State) : s.clearErr.mrVerdict = s.mrVerdict := rfl
@[simp] theorem State.clearErr_mrS (s : State) : s.clearErr.mrS = s.mrS := rfl
@[simp] theorem State.clearErr_mrRounds (s : State) : s.clearErr.mrRounds = s.mrRounds := rfl
@[simp] theorem State.clearErr_opa (s : State) : s.clearErr.opa = s.opa := rfl
@[simp] theorem State.clearErr_opd (s : State) : s.clearErr.opd = s.opd := rfl
@[simp] theorem State.clearErr_opn (s : State) : s.clearErr.opn = s.opn := rfl
@[simp] theorem State.clearErr_res (s : State) : s.clearErr.res = s.res := rfl
@[simp] theorem State.clearErr_mrn (s : State) : s.clearErr.mrn = s.mrn := rfl
@[simp] theorem State.clearErr_mrr (s : State) : s.clearErr.mrr = s.mrr := rfl
@[simp] theorem State.clearErr_mry (s : State) : s.clearErr.mry = s.mry := rfl
@[simp] theorem State.clearErr_pend (s : State) : s.clearErr.pend = s.pend := rfl
@[simp] theorem State.clearErr_agenda (s : State) : s.clearErr.agenda = s.agenda := rfl
@[simp] theorem State.clearErr_answer (s : State) : s.clearErr.answer = s.answer := rfl

@[simp] theorem State.finish_build (s : State) : s.finish.build = s.build := rfl
@[simp] theorem State.finish_ieDone (s : State) : s.finish.ieDone = s.ieDone := rfl
@[simp] theorem State.finish_ieErr (s : State) : s.finish.ieErr = s.ieErr := rfl
@[simp] theorem State.finish_done (s : State) : s.finish.done = true := rfl
@[simp] theorem State.finish_err (s : State) : s.finish.err = s.err := rfl
@[simp] theorem State.finish_errcode (s : State) : s.finish.errcode = s.errcode := rfl
@[simp] theorem State.finish_cmdLast (s : State) : s.finish.cmdLast = s.cmdLast := rfl
@[simp] theorem State.finish_mrInit (s : State) : s.finish.mrInit = s.mrInit := rfl
@[simp] theorem State.finish_mrDecided (s : State) : s.finish.mrDecided = s.mrDecided := rfl
@[simp] theorem State.finish_mrVerdict (s : State) : s.finish.mrVerdict = s.mrVerdict := rfl
@[simp] theorem State.finish_mrS (s : State) : s.finish.mrS = s.mrS := rfl
@[simp] theorem State.finish_mrRounds (s : State) : s.finish.mrRounds = s.mrRounds := rfl
@[simp] theorem State.finish_opa (s : State) : s.finish.opa = s.opa := rfl
@[simp] theorem State.finish_opd (s : State) : s.finish.opd = s.opd := rfl
@[simp] theorem State.finish_opn (s : State) : s.finish.opn = s.opn := rfl
@[simp] theorem State.finish_res (s : State) : s.finish.res = s.res := rfl
@[simp] theorem State.finish_mrn (s : State) : s.finish.mrn = s.mrn := rfl
@[simp] theorem State.finish_mrr (s : State) : s.finish.mrr = s.mrr := rfl
@[simp] theorem State.finish_mry (s : State) : s.finish.mry = s.mry := rfl
@[simp] theorem State.finish_pend (s : State) : s.finish.pend = s.pend := rfl
@[simp] theorem State.finish_agenda (s : State) : s.finish.agenda = s.agenda := rfl
@[simp] theorem State.finish_answer (s : State) : s.finish.answer = s.answer := rfl

@[simp] theorem State.clearDone_build (s : State) : s.clearDone.build = s.build := rfl
@[simp] theorem State.clearDone_ieDone (s : State) : s.clearDone.ieDone = s.ieDone := rfl
@[simp] theorem State.clearDone_ieErr (s : State) : s.clearDone.ieErr = s.ieErr := rfl
@[simp] theorem State.clearDone_done (s : State) : s.clearDone.done = false := rfl
@[simp] theorem State.clearDone_err (s : State) : s.clearDone.err = s.err := rfl
@[simp] theorem State.clearDone_errcode (s : State) : s.clearDone.errcode = s.errcode := rfl
@[simp] theorem State.clearDone_cmdLast (s : State) : s.clearDone.cmdLast = s.cmdLast := rfl
@[simp] theorem State.clearDone_mrInit (s : State) : s.clearDone.mrInit = s.mrInit := rfl
@[simp] theorem State.clearDone_mrDecided (s : State) : s.clearDone.mrDecided = s.mrDecided := rfl
@[simp] theorem State.clearDone_mrVerdict (s : State) : s.clearDone.mrVerdict = s.mrVerdict := rfl
@[simp] theorem State.clearDone_mrS (s : State) : s.clearDone.mrS = s.mrS := rfl
@[simp] theorem State.clearDone_mrRounds (s : State) : s.clearDone.mrRounds = s.mrRounds := rfl
@[simp] theorem State.clearDone_opa (s : State) : s.clearDone.opa = s.opa := rfl
@[simp] theorem State.clearDone_opd (s : State) : s.clearDone.opd = s.opd := rfl
@[simp] theorem State.clearDone_opn (s : State) : s.clearDone.opn = s.opn := rfl
@[simp] theorem State.clearDone_res (s : State) : s.clearDone.res = s.res := rfl
@[simp] theorem State.clearDone_mrn (s : State) : s.clearDone.mrn = s.mrn := rfl
@[simp] theorem State.clearDone_mrr (s : State) : s.clearDone.mrr = s.mrr := rfl
@[simp] theorem State.clearDone_mry (s : State) : s.clearDone.mry = s.mry := rfl
@[simp] theorem State.clearDone_pend (s : State) : s.clearDone.pend = s.pend := rfl
@[simp] theorem State.clearDone_agenda (s : State) : s.clearDone.agenda = s.agenda := rfl
@[simp] theorem State.clearDone_answer (s : State) : s.clearDone.answer = s.answer := rfl

@[simp] theorem State.setEnables_build (d e : Bool) (s : State) : (s.setEnables d e).build = s.build := rfl
@[simp] theorem State.setEnables_ieDone (d e : Bool) (s : State) : (s.setEnables d e).ieDone = d := rfl
@[simp] theorem State.setEnables_ieErr (d e : Bool) (s : State) : (s.setEnables d e).ieErr = e := rfl
@[simp] theorem State.setEnables_done (d e : Bool) (s : State) : (s.setEnables d e).done = s.done := rfl
@[simp] theorem State.setEnables_err (d e : Bool) (s : State) : (s.setEnables d e).err = s.err := rfl
@[simp] theorem State.setEnables_errcode (d e : Bool) (s : State) : (s.setEnables d e).errcode = s.errcode := rfl
@[simp] theorem State.setEnables_cmdLast (d e : Bool) (s : State) : (s.setEnables d e).cmdLast = s.cmdLast := rfl
@[simp] theorem State.setEnables_mrInit (d e : Bool) (s : State) : (s.setEnables d e).mrInit = s.mrInit := rfl
@[simp] theorem State.setEnables_mrDecided (d e : Bool) (s : State) : (s.setEnables d e).mrDecided = s.mrDecided := rfl
@[simp] theorem State.setEnables_mrVerdict (d e : Bool) (s : State) : (s.setEnables d e).mrVerdict = s.mrVerdict := rfl
@[simp] theorem State.setEnables_mrS (d e : Bool) (s : State) : (s.setEnables d e).mrS = s.mrS := rfl
@[simp] theorem State.setEnables_mrRounds (d e : Bool) (s : State) : (s.setEnables d e).mrRounds = s.mrRounds := rfl
@[simp] theorem State.setEnables_opa (d e : Bool) (s : State) : (s.setEnables d e).opa = s.opa := rfl
@[simp] theorem State.setEnables_opd (d e : Bool) (s : State) : (s.setEnables d e).opd = s.opd := rfl
@[simp] theorem State.setEnables_opn (d e : Bool) (s : State) : (s.setEnables d e).opn = s.opn := rfl
@[simp] theorem State.setEnables_res (d e : Bool) (s : State) : (s.setEnables d e).res = s.res := rfl
@[simp] theorem State.setEnables_mrn (d e : Bool) (s : State) : (s.setEnables d e).mrn = s.mrn := rfl
@[simp] theorem State.setEnables_mrr (d e : Bool) (s : State) : (s.setEnables d e).mrr = s.mrr := rfl
@[simp] theorem State.setEnables_mry (d e : Bool) (s : State) : (s.setEnables d e).mry = s.mry := rfl
@[simp] theorem State.setEnables_pend (d e : Bool) (s : State) : (s.setEnables d e).pend = s.pend := rfl
@[simp] theorem State.setEnables_agenda (d e : Bool) (s : State) : (s.setEnables d e).agenda = s.agenda := rfl
@[simp] theorem State.setEnables_answer (d e : Bool) (s : State) : (s.setEnables d e).answer = s.answer := rfl

@[simp] theorem State.accept_build (v : Word) (s : State) : (s.accept v).build = s.build := rfl
@[simp] theorem State.accept_ieDone (v : Word) (s : State) : (s.accept v).ieDone = s.ieDone := rfl
@[simp] theorem State.accept_ieErr (v : Word) (s : State) : (s.accept v).ieErr = s.ieErr := rfl
@[simp] theorem State.accept_done (v : Word) (s : State) : (s.accept v).done = false := rfl
@[simp] theorem State.accept_err (v : Word) (s : State) : (s.accept v).err = s.err := rfl
@[simp] theorem State.accept_errcode (v : Word) (s : State) : (s.accept v).errcode = s.errcode := rfl
@[simp] theorem State.accept_cmdLast (v : Word) (s : State) : (s.accept v).cmdLast = v := rfl
@[simp] theorem State.accept_mrInit (v : Word) (s : State) : (s.accept v).mrInit = s.mrInit := rfl
@[simp] theorem State.accept_mrDecided (v : Word) (s : State) : (s.accept v).mrDecided = s.mrDecided := rfl
@[simp] theorem State.accept_mrVerdict (v : Word) (s : State) : (s.accept v).mrVerdict = s.mrVerdict := rfl
@[simp] theorem State.accept_mrS (v : Word) (s : State) : (s.accept v).mrS = s.mrS := rfl
@[simp] theorem State.accept_mrRounds (v : Word) (s : State) : (s.accept v).mrRounds = s.mrRounds := rfl
@[simp] theorem State.accept_opa (v : Word) (s : State) : (s.accept v).opa = s.opa := rfl
@[simp] theorem State.accept_opd (v : Word) (s : State) : (s.accept v).opd = s.opd := rfl
@[simp] theorem State.accept_opn (v : Word) (s : State) : (s.accept v).opn = s.opn := rfl
@[simp] theorem State.accept_res (v : Word) (s : State) : (s.accept v).res = s.res := rfl
@[simp] theorem State.accept_mrn (v : Word) (s : State) : (s.accept v).mrn = s.mrn := rfl
@[simp] theorem State.accept_mrr (v : Word) (s : State) : (s.accept v).mrr = s.mrr := rfl
@[simp] theorem State.accept_mry (v : Word) (s : State) : (s.accept v).mry = s.mry := rfl
@[simp] theorem State.accept_pend (v : Word) (s : State) : (s.accept v).pend = s.pend := rfl
@[simp] theorem State.accept_agenda (v : Word) (s : State) : (s.accept v).agenda = s.agenda := rfl
@[simp] theorem State.accept_answer (v : Word) (s : State) : (s.accept v).answer = s.answer := rfl

@[simp] theorem State.refuse_build (e : ErrCode) (v : Word) (s : State) : (s.refuse e v).build = s.build := rfl
@[simp] theorem State.refuse_ieDone (e : ErrCode) (v : Word) (s : State) : (s.refuse e v).ieDone = s.ieDone := rfl
@[simp] theorem State.refuse_ieErr (e : ErrCode) (v : Word) (s : State) : (s.refuse e v).ieErr = s.ieErr := rfl
@[simp] theorem State.refuse_done (e : ErrCode) (v : Word) (s : State) : (s.refuse e v).done = true := rfl
@[simp] theorem State.refuse_err (e : ErrCode) (v : Word) (s : State) : (s.refuse e v).err = true := rfl
@[simp] theorem State.refuse_errcode (e : ErrCode) (v : Word) (s : State) : (s.refuse e v).errcode = if s.err then s.errcode else e := rfl
@[simp] theorem State.refuse_cmdLast (e : ErrCode) (v : Word) (s : State) : (s.refuse e v).cmdLast = v := rfl
@[simp] theorem State.refuse_mrInit (e : ErrCode) (v : Word) (s : State) : (s.refuse e v).mrInit = s.mrInit := rfl
@[simp] theorem State.refuse_mrDecided (e : ErrCode) (v : Word) (s : State) : (s.refuse e v).mrDecided = s.mrDecided := rfl
@[simp] theorem State.refuse_mrVerdict (e : ErrCode) (v : Word) (s : State) : (s.refuse e v).mrVerdict = s.mrVerdict := rfl
@[simp] theorem State.refuse_mrS (e : ErrCode) (v : Word) (s : State) : (s.refuse e v).mrS = s.mrS := rfl
@[simp] theorem State.refuse_mrRounds (e : ErrCode) (v : Word) (s : State) : (s.refuse e v).mrRounds = s.mrRounds := rfl
@[simp] theorem State.refuse_opa (e : ErrCode) (v : Word) (s : State) : (s.refuse e v).opa = s.opa := rfl
@[simp] theorem State.refuse_opd (e : ErrCode) (v : Word) (s : State) : (s.refuse e v).opd = s.opd := rfl
@[simp] theorem State.refuse_opn (e : ErrCode) (v : Word) (s : State) : (s.refuse e v).opn = s.opn := rfl
@[simp] theorem State.refuse_res (e : ErrCode) (v : Word) (s : State) : (s.refuse e v).res = s.res := rfl
@[simp] theorem State.refuse_mrn (e : ErrCode) (v : Word) (s : State) : (s.refuse e v).mrn = s.mrn := rfl
@[simp] theorem State.refuse_mrr (e : ErrCode) (v : Word) (s : State) : (s.refuse e v).mrr = s.mrr := rfl
@[simp] theorem State.refuse_mry (e : ErrCode) (v : Word) (s : State) : (s.refuse e v).mry = s.mry := rfl
@[simp] theorem State.refuse_pend (e : ErrCode) (v : Word) (s : State) : (s.refuse e v).pend = s.pend := rfl
@[simp] theorem State.refuse_agenda (e : ErrCode) (v : Word) (s : State) : (s.refuse e v).agenda = s.agenda := rfl
@[simp] theorem State.refuse_answer (e : ErrCode) (v : Word) (s : State) : (s.refuse e v).answer = s.answer := rfl

@[simp] theorem State.launch_build (c : Pending) (s : State) : (s.launch c).build = s.build := rfl
@[simp] theorem State.launch_ieDone (c : Pending) (s : State) : (s.launch c).ieDone = s.ieDone := rfl
@[simp] theorem State.launch_ieErr (c : Pending) (s : State) : (s.launch c).ieErr = s.ieErr := rfl
@[simp] theorem State.launch_done (c : Pending) (s : State) : (s.launch c).done = s.done := rfl
@[simp] theorem State.launch_err (c : Pending) (s : State) : (s.launch c).err = s.err := rfl
@[simp] theorem State.launch_errcode (c : Pending) (s : State) : (s.launch c).errcode = s.errcode := rfl
@[simp] theorem State.launch_cmdLast (c : Pending) (s : State) : (s.launch c).cmdLast = s.cmdLast := rfl
@[simp] theorem State.launch_mrInit (c : Pending) (s : State) : (s.launch c).mrInit = s.mrInit := rfl
@[simp] theorem State.launch_mrDecided (c : Pending) (s : State) : (s.launch c).mrDecided = s.mrDecided := rfl
@[simp] theorem State.launch_mrVerdict (c : Pending) (s : State) : (s.launch c).mrVerdict = s.mrVerdict := rfl
@[simp] theorem State.launch_mrS (c : Pending) (s : State) : (s.launch c).mrS = s.mrS := rfl
@[simp] theorem State.launch_mrRounds (c : Pending) (s : State) : (s.launch c).mrRounds = s.mrRounds := rfl
@[simp] theorem State.launch_opa (c : Pending) (s : State) : (s.launch c).opa = s.opa := rfl
@[simp] theorem State.launch_opd (c : Pending) (s : State) : (s.launch c).opd = s.opd := rfl
@[simp] theorem State.launch_opn (c : Pending) (s : State) : (s.launch c).opn = s.opn := rfl
@[simp] theorem State.launch_res (c : Pending) (s : State) : (s.launch c).res = s.res := rfl
@[simp] theorem State.launch_mrn (c : Pending) (s : State) : (s.launch c).mrn = s.mrn := rfl
@[simp] theorem State.launch_mrr (c : Pending) (s : State) : (s.launch c).mrr = s.mrr := rfl
@[simp] theorem State.launch_mry (c : Pending) (s : State) : (s.launch c).mry = s.mry := rfl
@[simp] theorem State.launch_pend (c : Pending) (s : State) : (s.launch c).pend = some c := rfl
@[simp] theorem State.launch_agenda (c : Pending) (s : State) : (s.launch c).agenda = s.agenda := rfl
@[simp] theorem State.launch_answer (c : Pending) (s : State) : (s.launch c).answer = s.answer := rfl

@[simp] theorem State.complete_build (s : State) : s.complete.build = s.build := rfl
@[simp] theorem State.complete_ieDone (s : State) : s.complete.ieDone = s.ieDone := rfl
@[simp] theorem State.complete_ieErr (s : State) : s.complete.ieErr = s.ieErr := rfl
@[simp] theorem State.complete_done (s : State) : s.complete.done = true := rfl
@[simp] theorem State.complete_err (s : State) : s.complete.err = s.err := rfl
@[simp] theorem State.complete_errcode (s : State) : s.complete.errcode = s.errcode := rfl
@[simp] theorem State.complete_cmdLast (s : State) : s.complete.cmdLast = s.cmdLast := rfl
@[simp] theorem State.complete_mrInit (s : State) : s.complete.mrInit = s.mrInit := rfl
@[simp] theorem State.complete_mrDecided (s : State) : s.complete.mrDecided = s.mrDecided := rfl
@[simp] theorem State.complete_mrVerdict (s : State) : s.complete.mrVerdict = s.mrVerdict := rfl
@[simp] theorem State.complete_mrS (s : State) : s.complete.mrS = s.mrS := rfl
@[simp] theorem State.complete_mrRounds (s : State) : s.complete.mrRounds = s.mrRounds := rfl
@[simp] theorem State.complete_opa (s : State) : s.complete.opa = s.opa := rfl
@[simp] theorem State.complete_opd (s : State) : s.complete.opd = s.opd := rfl
@[simp] theorem State.complete_opn (s : State) : s.complete.opn = s.opn := rfl
@[simp] theorem State.complete_res (s : State) : s.complete.res = s.res := rfl
@[simp] theorem State.complete_mrn (s : State) : s.complete.mrn = s.mrn := rfl
@[simp] theorem State.complete_mrr (s : State) : s.complete.mrr = s.mrr := rfl
@[simp] theorem State.complete_mry (s : State) : s.complete.mry = s.mry := rfl
@[simp] theorem State.complete_pend (s : State) : s.complete.pend = none := rfl
@[simp] theorem State.complete_agenda (s : State) : s.complete.agenda = s.agenda := rfl
@[simp] theorem State.complete_answer (s : State) : s.complete.answer = s.answer := rfl

@[simp] theorem State.toReset_build (s : State) : s.toReset.build = s.build := rfl
@[simp] theorem State.toReset_ieDone (s : State) : s.toReset.ieDone = false := rfl
@[simp] theorem State.toReset_ieErr (s : State) : s.toReset.ieErr = false := rfl
@[simp] theorem State.toReset_done (s : State) : s.toReset.done = false := rfl
@[simp] theorem State.toReset_err (s : State) : s.toReset.err = false := rfl
@[simp] theorem State.toReset_errcode (s : State) : s.toReset.errcode = .none := rfl
@[simp] theorem State.toReset_cmdLast (s : State) : s.toReset.cmdLast = 0 := rfl
@[simp] theorem State.toReset_mrInit (s : State) : s.toReset.mrInit = false := rfl
@[simp] theorem State.toReset_mrDecided (s : State) : s.toReset.mrDecided = false := rfl
@[simp] theorem State.toReset_mrVerdict (s : State) : s.toReset.mrVerdict = false := rfl
@[simp] theorem State.toReset_mrS (s : State) : s.toReset.mrS = 0 := rfl
@[simp] theorem State.toReset_mrRounds (s : State) : s.toReset.mrRounds = 0 := rfl
@[simp] theorem State.toReset_opa (s : State) : s.toReset.opa = 0 := rfl
@[simp] theorem State.toReset_opd (s : State) : s.toReset.opd = 0 := rfl
@[simp] theorem State.toReset_opn (s : State) : s.toReset.opn = 0 := rfl
@[simp] theorem State.toReset_res (s : State) : s.toReset.res = 0 := rfl
@[simp] theorem State.toReset_mrn (s : State) : s.toReset.mrn = 0 := rfl
@[simp] theorem State.toReset_mrr (s : State) : s.toReset.mrr = 0 := rfl
@[simp] theorem State.toReset_mry (s : State) : s.toReset.mry = 0 := rfl
@[simp] theorem State.toReset_pend (s : State) : s.toReset.pend = none := rfl
@[simp] theorem State.toReset_agenda (s : State) : s.toReset.agenda = s.agenda := rfl
@[simp] theorem State.toReset_answer (s : State) : s.toReset.answer = s.answer := rfl

@[simp] theorem State.hardReset_build (s : State) : s.hardReset.build = s.build := rfl
@[simp] theorem State.hardReset_ieDone (s : State) : s.hardReset.ieDone = false := rfl
@[simp] theorem State.hardReset_ieErr (s : State) : s.hardReset.ieErr = false := rfl
@[simp] theorem State.hardReset_done (s : State) : s.hardReset.done = false := rfl
@[simp] theorem State.hardReset_err (s : State) : s.hardReset.err = false := rfl
@[simp] theorem State.hardReset_errcode (s : State) : s.hardReset.errcode = .none := rfl
@[simp] theorem State.hardReset_cmdLast (s : State) : s.hardReset.cmdLast = 0 := rfl
@[simp] theorem State.hardReset_mrInit (s : State) : s.hardReset.mrInit = false := rfl
@[simp] theorem State.hardReset_mrDecided (s : State) : s.hardReset.mrDecided = false := rfl
@[simp] theorem State.hardReset_mrVerdict (s : State) : s.hardReset.mrVerdict = false := rfl
@[simp] theorem State.hardReset_mrS (s : State) : s.hardReset.mrS = 0 := rfl
@[simp] theorem State.hardReset_mrRounds (s : State) : s.hardReset.mrRounds = 0 := rfl
@[simp] theorem State.hardReset_opa (s : State) : s.hardReset.opa = 0 := rfl
@[simp] theorem State.hardReset_opd (s : State) : s.hardReset.opd = 0 := rfl
@[simp] theorem State.hardReset_opn (s : State) : s.hardReset.opn = 0 := rfl
@[simp] theorem State.hardReset_res (s : State) : s.hardReset.res = 0 := rfl
@[simp] theorem State.hardReset_mrn (s : State) : s.hardReset.mrn = 0 := rfl
@[simp] theorem State.hardReset_mrr (s : State) : s.hardReset.mrr = 0 := rfl
@[simp] theorem State.hardReset_mry (s : State) : s.hardReset.mry = 0 := rfl
@[simp] theorem State.hardReset_pend (s : State) : s.hardReset.pend = none := rfl
@[simp] theorem State.hardReset_agenda (s : State) : s.hardReset.agenda = s.agenda := rfl
@[simp] theorem State.hardReset_answer (s : State) : s.hardReset.answer = none := rfl

@[simp] theorem State.resetOf_build (b : Build) : (State.resetOf b).build = b := rfl
@[simp] theorem State.resetOf_ieDone (b : Build) : (State.resetOf b).ieDone = false := rfl
@[simp] theorem State.resetOf_ieErr (b : Build) : (State.resetOf b).ieErr = false := rfl
@[simp] theorem State.resetOf_done (b : Build) : (State.resetOf b).done = false := rfl
@[simp] theorem State.resetOf_err (b : Build) : (State.resetOf b).err = false := rfl
@[simp] theorem State.resetOf_errcode (b : Build) : (State.resetOf b).errcode = .none := rfl
@[simp] theorem State.resetOf_cmdLast (b : Build) : (State.resetOf b).cmdLast = 0 := rfl
@[simp] theorem State.resetOf_mrInit (b : Build) : (State.resetOf b).mrInit = false := rfl
@[simp] theorem State.resetOf_mrDecided (b : Build) : (State.resetOf b).mrDecided = false := rfl
@[simp] theorem State.resetOf_mrVerdict (b : Build) : (State.resetOf b).mrVerdict = false := rfl
@[simp] theorem State.resetOf_mrS (b : Build) : (State.resetOf b).mrS = 0 := rfl
@[simp] theorem State.resetOf_mrRounds (b : Build) : (State.resetOf b).mrRounds = 0 := rfl
@[simp] theorem State.resetOf_opa (b : Build) : (State.resetOf b).opa = 0 := rfl
@[simp] theorem State.resetOf_opd (b : Build) : (State.resetOf b).opd = 0 := rfl
@[simp] theorem State.resetOf_opn (b : Build) : (State.resetOf b).opn = 0 := rfl
@[simp] theorem State.resetOf_res (b : Build) : (State.resetOf b).res = 0 := rfl
@[simp] theorem State.resetOf_mrn (b : Build) : (State.resetOf b).mrn = 0 := rfl
@[simp] theorem State.resetOf_mrr (b : Build) : (State.resetOf b).mrr = 0 := rfl
@[simp] theorem State.resetOf_mry (b : Build) : (State.resetOf b).mry = 0 := rfl
@[simp] theorem State.resetOf_pend (b : Build) : (State.resetOf b).pend = none := rfl
@[simp] theorem State.resetOf_agenda (b : Build) : (State.resetOf b).agenda = [] := rfl
@[simp] theorem State.resetOf_answer (b : Build) : (State.resetOf b).answer = none := rfl

end Sys2Proof.Machine
end

