-- ==== Sys2Proof/Laws/Bus.lean ====
section
/-! SUPPORT. What a bus write can do, said once, and the byte view of the aperture. -/

namespace Sys2Proof.Machine

/-- ABORT of an idle block does nothing (60_exceptions.md R113). -/
theorem abort_idle {s : State} (h : s.pend = none) : s.abort = s := by simp [State.abort, h]

/-- ABORT of a command in flight discards it and records E_ABORT (60_exceptions.md R113). -/
theorem abort_inFlight {s : State} {c : Pending} (h : s.pend = some c) :
    s.abort = { s with
      pend := none
      done := true
      err := true
      errcode := if s.err then s.errcode else .abort } := by
  simp [State.abort, h, State.raise, State.finish]

/-- Everything a write of CTRL can do (10_state.md R18): a soft reset, the enables with an abort of the command in
flight, or the enables alone. -/
theorem writeCtrl_cases (v : Word) (s : State) :
    (v.getLsbD 3 = true ∧ s.writeCtrl v = s.toReset) ∨
    (v.getLsbD 3 = false ∧ v.getLsbD 2 = true ∧ (∃ c, s.pend = some c) ∧
      s.writeCtrl v = { s with
        ieDone := v.getLsbD 0
        ieErr := v.getLsbD 1
        pend := none
        done := true
        err := true
        errcode := if s.err then s.errcode else .abort }) ∨
    (v.getLsbD 3 = false ∧ (v.getLsbD 2 = false ∨ s.pend = none) ∧
      s.writeCtrl v = s.setEnables (v.getLsbD 0) (v.getLsbD 1)) := by
  unfold State.writeCtrl
  rcases v.getLsbD 3 with _ | _
  · rcases v.getLsbD 2 with _ | _
    · exact .inr (.inr ⟨rfl, .inl rfl, rfl⟩)
    · rcases hp : s.pend with _ | c
      · exact .inr (.inr ⟨rfl, .inr rfl, abort_idle hp⟩)
      · exact .inr (.inl ⟨rfl, rfl, ⟨c, rfl⟩, abort_inFlight hp⟩)
  · exact .inl ⟨rfl, rfl⟩

/-- A write of STATUS changes DONE, ERR and ERRCODE alone (10_state.md R19). -/
theorem writeStatus_eq (v : Word) (s : State) :
    s.writeStatus v = { s with
      done := if v.getLsbD 1 then false else s.done
      err := if v.getLsbD 2 then false else s.err
      errcode := if v.getLsbD 2 then .none else s.errcode } := by
  unfold State.writeStatus
  rcases v.getLsbD 1 <;> rcases v.getLsbD 2 <;> rfl

/-- Everything a write of an illegal word to CMD can do (40_command_lifecycle.md R68, R70). -/
theorem writeIllegal_cases (v : Word) (s : State) :
    (∃ c, s.pend = some c ∧ s.writeIllegal v = s.raise .busy) ∨
    (∃ e, s.pend = none ∧ decodeWord v = .rejected e ∧ s.writeIllegal v = s.refuse (errOfReject e) v) ∨
    (∃ i, s.pend = none ∧ decodeWord v = .instr i ∧ s.writeIllegal v = s) := by
  unfold State.writeIllegal State.busy
  rcases s.pend with _ | c
  · rcases hd : decodeWord v with i | e
    · exact .inr (.inr ⟨i, rfl, rfl, by simp⟩)
    · exact .inr (.inl ⟨e, rfl, rfl, by simp⟩)
  · exact .inl ⟨c, rfl, by simp⟩

/-- Everything a write to a window can do: a word of an operand register, or nothing (20_memory.md R45, R48, R49). -/
theorem setWindowWord_cases (x : Window) (i : Nat) (v : Word) (s : State) :
    s.setWindowWord x i v = s ∨
    (i < s.build.nw ∧ x = .opa ∧ s.setWindowWord x i v = { s with opa := putWord s.opa i v }) ∨
    (i < s.build.nw ∧ x = .opd ∧ s.setWindowWord x i v = { s with opd := putWord s.opd i v }) ∨
    (i < s.build.nw ∧ x = .opn ∧ s.setWindowWord x i v = { s with opn := putWord s.opn i v }) := by
  unfold State.setWindowWord
  by_cases h : i < s.build.nw
  · cases x <;> simp [h]
  · simp [h]

/-- The offset of word `i` of a window selects it (20_memory.md R42, R44). -/
theorem locate_windowBase (x : Window) {i : Nat} (hi : i < 256) :
    locate (Script.windowBase x + 4 * i) = .window x i := by
  cases x
  · exact locate_window (k := 1) (r := 0) .opa rfl hi (by omega)
  · exact locate_window (k := 2) (r := 0) .opd rfl hi (by omega)
  · exact locate_window (k := 3) (r := 0) .opn rfl hi (by omega)
  · exact locate_window (k := 4) (r := 0) .res rfl hi (by omega)
  · exact locate_window (k := 5) (r := 0) .mrn rfl hi (by omega)
  · exact locate_window (k := 6) (r := 0) .mrr rfl hi (by omega)
  · exact locate_window (k := 7) (r := 0) .mry rfl hi (by omega)

/-- The offset of a window word is aligned (20_memory.md R46). -/
theorem windowBase_aligned (x : Window) (i : Nat) : (Script.windowBase x + 4 * i) % 4 = 0 := by
  cases x <;> simp only [Script.windowBase] <;> omega

/-- A written operand word reads back (20_memory.md R48). -/
theorem windowWord_setWindowWord_same {x : Window} {i : Nat} {s : State} (v : Word) (hx : x.isOperand = true)
    (hi : i < s.build.nw) : (s.setWindowWord x i v).windowWord x i = v := by
  cases x <;> simp [Window.isOperand] at hx <;>
    simp [State.setWindowWord, hi, State.windowWord, State.windowValue, wordAt_putWord_same]

/-- Every other word of every window stays (20_memory.md R48). -/
theorem windowWord_setWindowWord_ne {x y : Window} {i j : Nat} (s : State) (v : Word) (h : ¬ (y = x ∧ j = i)) :
    (s.setWindowWord x i v).windowWord y j = s.windowWord y j := by
  unfold State.setWindowWord
  split
  · cases x <;> try rfl
    all_goals
      cases y <;> try rfl
      all_goals
        simp only [State.windowWord, State.windowValue]
        rw [wordAt_putWord_ne _ _ (fun e => h ⟨rfl, e⟩)]
  · rfl

/-- Everything a bus write can do: an error response, a write of a register, or a write of a window word. -/
theorem busWrite_cases (off size : Nat) (st : BitVec 4) (v : Word) (s : State) :
    (∃ r, r ≠ .okay ∧ respOf off size (fullStrobes st) = r ∧ s.busWrite off size st v = s.respond (.write r)) ∨
    (∃ r, respOf off size (fullStrobes st) = .okay ∧ locate off = .csr r ∧
      s.busWrite off size st v = (s.writeCsr r v).respond (.write .okay)) ∨
    (∃ x i, respOf off size (fullStrobes st) = .okay ∧ locate off = .window x i ∧
      s.busWrite off size st v = (s.setWindowWord x i v).respond (.write .okay)) := by
  unfold State.busWrite
  rcases hr : respOf off size (fullStrobes st)
  · right
    rcases hl : locate off with r | ⟨x, i⟩ | _ | _
    · exact .inl ⟨r, rfl, rfl, rfl⟩
    · exact .inr ⟨x, i, rfl, rfl, rfl⟩
    · simp [respOf, hl] at hr
    · simp [respOf, hl] at hr
  · exact .inl ⟨_, by simp, rfl, rfl⟩
  · exact .inl ⟨_, by simp, rfl, rfl⟩

/-- The byte at an offset of the aperture (20_memory.md R41). -/
theorem byteAt_offset (s : State) (off : Nat) :
    s.byteAt (s.build.base + off) =
      match locate off with
      | .csr r => some (laneOf (s.csrWord r) (off % 4))
      | .window x i => some (laneOf (s.windowWord x i) (off % 4))
      | .reserved => none
      | .outside => none := by
  cases h : locate off <;> simp [State.byteAt, h]

/-- States of one build whose registers and window words agree outside some offsets show the same bytes there. -/
theorem sameBytesOutside {s t : State} {changed : Nat → Prop} (hb : t.build = s.build)
    (hc : ∀ off r, locate off = .csr r → ¬ changed off → t.csrWord r = s.csrWord r)
    (hw : ∀ off x i, locate off = .window x i → ¬ changed off → t.windowWord x i = s.windowWord x i) :
    s.SameBytesOutside changed t := by
  intro off h
  rw [byteAt_offset s, ← hb, byteAt_offset t]
  rcases hl : locate off with r | ⟨x, i⟩ | _ | _
  · simp [hc off r hl h]
  · simp [hw off x i hl h]
  · rfl
  · rfl

end Sys2Proof.Machine
end

