-- ==== Sys2Proof/Laws/Decode.lean ====
section
/-! SUPPORT. Command words as numbers, and words as bytes. -/

namespace Sys2Proof

/-- The fields of a command word as numbers (30_encoding.md R59). -/
theorem commandFields_toNat (v : Word) : (commandFields v).opcode.toNat = v.toNat % 256 ∧ (commandFields v).rsvd.toNat = v.toNat / 256 := by
  have := v.isLt
  simp [commandFields, BitVec.extractLsb'_toNat, Nat.shiftRight_eq_div_pow]; omega

/-- Decoding as a function of the word's value (30_encoding.md R61 to R64). -/
theorem decodeWord_eq (v : Word) : decodeWord v =
    if 4 < v.toNat % 256 then .rejected .unassignedOpcode
    else if v.toNat / 256 ≠ 0 then .rejected .reservedBits
    else
      match v.toNat with
      | 0 => .instr .nop
      | 1 => .instr .powmod
      | 2 => .instr .mrInit
      | 3 => .instr .mrRound
      | _ => .instr .mrClear := by
  obtain ⟨h1, h2⟩ := commandFields_toNat v
  have hr : (commandFields v).rsvd = 0#24 ↔ v.toNat / 256 = 0 := by
    rw [← h2]; exact ⟨fun h => by simp [h], fun h => BitVec.eq_of_toNat_eq (by simpa using h)⟩
  have ho : ∀ k : BitVec 8, (commandFields v).opcode = k ↔ v.toNat % 256 = k.toNat := by
    intro k; rw [← h1]; exact ⟨fun h => by simp [h], fun h => BitVec.eq_of_toNat_eq h⟩
  unfold decodeWord instrOfOpcode
  simp only [ho, hr]
  by_cases hb : 4 < v.toNat % 256
  · have e0 : ¬ v.toNat % 256 = (0x00#8).toNat := by simp; omega
    have e1 : ¬ v.toNat % 256 = (0x01#8).toNat := by simp; omega
    have e2 : ¬ v.toNat % 256 = (0x02#8).toNat := by simp; omega
    have e3 : ¬ v.toNat % 256 = (0x03#8).toNat := by simp; omega
    have e4 : ¬ v.toNat % 256 = (0x04#8).toNat := by simp; omega
    simp only [e0, e1, e2, e3, e4, if_false, hb, if_true]
  · rw [if_neg hb]
    by_cases hz : v.toNat / 256 = 0
    · have hl : v.toNat < 5 := by omega
      generalize hv : v.toNat = m at *
      interval_cases m <;> simp
    · have hl : v.toNat % 256 < 5 := by omega
      generalize hv : v.toNat % 256 = m at *
      interval_cases m <;> simp [hz]

/-- The bytes of the word that four bytes carry. -/
theorem bytesOfWord_wordOfBytes (b0 b1 b2 b3 : Byte) : bytesOfWord (wordOfBytes b0 b1 b2 b3) = [b0, b1, b2, b3] := by
  simp only [bytesOfWord, laneOf, wordOfBytes, List.cons.injEq, and_true]
  refine ⟨?_, ?_, ?_, ?_⟩ <;> apply BitVec.eq_of_getLsbD_eq <;> intro k hk <;>
    simp only [BitVec.getLsbD_append, BitVec.getLsbD_extractLsb'] <;> interval_cases k <;> simp

/-- The word that the four lanes of a word carry. -/
theorem wordOfBytes_lanes (v : Word) : wordOfBytes (laneOf v 0) (laneOf v 1) (laneOf v 2) (laneOf v 3) = v := by
  apply BitVec.eq_of_getLsbD_eq
  intro k hk
  simp only [wordOfBytes, laneOf, BitVec.getLsbD_append, BitVec.getLsbD_extractLsb']
  interval_cases k <;> simp

end Sys2Proof
end

