-- ==== Sys2Proof/Laws/Ops.lean ====
section
/-! SUPPORT. What each shared operation can do, said once: abort, issue, the engine's step, and a whole command. -/

namespace Sys2Proof.Machine

/-- A CMD write of a command's word while busy (40_command_lifecycle.md R68). -/
theorem issue_busy {i check start} {s : State} {c : Pending} (h : s.pend = some c) :
    s.issue i check start = .next ((s.raise .busy).respond (.write .okay)).advance := by
  simp [State.issue, State.busy, h]

/-- A command refused by its checks (40_command_lifecycle.md R72). -/
theorem issue_refused {i check start} {s : State} {e : ErrCode} (h : s.pend = none)
    (hc : check (s.snapshot i) s = some e) :
    s.issue i check start = .next ((s.refuse e (encode i)).respond (.write .okay)).advance := by
  simp [State.issue, State.busy, h, State.admission, hc]

/-- A command that passes its checks (40_command_lifecycle.md R73). -/
theorem issue_started {i check start} {s : State} (h : s.pend = none) (hc : check (s.snapshot i) s = none) :
    s.issue i check start = .next ((start (s.snapshot i) (s.accept (encode i))).respond (.write .okay)).advance := by
  simp [State.issue, State.busy, h, State.admission, hc]

/-- Everything the issue half of a command can do. -/
theorem issue_cases {i check start} {s t : State} (h : s.issue i check start = .next t) :
    (∃ c, s.pend = some c ∧ t = ((s.raise .busy).respond (.write .okay)).advance) ∨
    (∃ e, s.pend = none ∧ check (s.snapshot i) s = some e ∧
      t = ((s.refuse e (encode i)).respond (.write .okay)).advance) ∨
    (s.pend = none ∧ check (s.snapshot i) s = none ∧
      t = ((start (s.snapshot i) (s.accept (encode i))).respond (.write .okay)).advance) := by
  rcases hp : s.pend with _ | c
  · rcases hc : check (s.snapshot i) s with _ | e
    · rw [issue_started hp hc] at h
      exact .inr (.inr ⟨rfl, rfl, by simpa using h.symm⟩)
    · rw [issue_refused hp hc] at h
      exact .inr (.inl ⟨e, rfl, rfl, by simpa using h.symm⟩)
  · rw [issue_busy hp] at h
    exact .inl ⟨c, rfl, by simpa using h.symm⟩

/-- The engine's step of the command in flight (40_command_lifecycle.md R75). -/
theorem engineStep_next {i effect} {s u : State} {c : Pending} (h : s.pend = some c) (ho : c.op = i)
    (he : effect c s = .next u) : s.engineStep i effect = .next u.complete.advance := by
  simp [State.engineStep, h, ho, he]

/-- Everything the engine half of a command can do when it gives a next state. -/
theorem engineStep_cases {i effect} {s t : State} (h : s.engineStep i effect = .next t) :
    (∃ c u, s.pend = some c ∧ c.op = i ∧ effect c s = .next u ∧ t = u.complete.advance) ∨
    ((∀ c, s.pend = some c → c.op ≠ i) ∧ t = s.advance) := by
  rcases hp : s.pend with _ | c
  · right
    simp only [State.engineStep, hp] at h
    exact ⟨by simp, by simpa using h.symm⟩
  · by_cases ho : c.op = i
    · left
      simp only [State.engineStep, hp, ho, if_true] at h
      rcases he : effect c s with u | f | r
      · rw [he] at h
        exact ⟨c, u, rfl, ho, he, by simpa using h.symm⟩
      · rw [he] at h
        simp at h
      · rw [he] at h
        simp at h
    · right
      simp only [State.engineStep, hp, ho, if_false] at h
      exact ⟨by simpa using ho, by simpa using h.symm⟩

/-- The checks of each command at acceptance (40_command_lifecycle.md R72). -/
def checkOf : Instr → Pending → State → Option ErrCode
  | .nop => fun _ _ => none
  | .powmod => checkPowmod
  | .mrInit => fun _ _ => none
  | .mrRound => checkMrRound
  | .mrClear => fun _ _ => none

/-- How each command begins once accepted (40_command_lifecycle.md R73). -/
def startOf : Instr → Pending → State → State
  | .nop => fun _ t => t.finish
  | .powmod => State.launch
  | .mrInit => State.launch
  | .mrRound => State.launch
  | .mrClear => State.launch

/-- The effect of each command (40_command_lifecycle.md R75). -/
def effectOf : Instr → Pending → State → Host.Outcome State Fault Refusal
  | .nop => fun _ t => .next t
  | .powmod => effectPowmod
  | .mrInit => effectMrInit
  | .mrRound => effectMrRound
  | .mrClear => effectMrClear

/-- When POWMOD passes its check (41_powmod.md R81). -/
theorem checkPowmod_eq_none {c : Pending} {s : State} : checkPowmod c s = none ↔ c.n ≠ 0 := by
  simp only [checkPowmod]
  split <;> simp_all

/-- When MR_ROUND passes its checks (42_miller_rabin.md R92). -/
theorem checkMrRound_eq_none {c : Pending} {s : State} :
    checkMrRound c s = none ↔ s.mrInit = true ∧ s.mrDecided = false ∧ 2 ≤ c.a ∧ c.a + 2 ≤ s.mrn := by
  unfold checkMrRound
  rcases s.mrInit <;> rcases s.mrDecided <;> simp
  omega

/-- Every command is one shared operation over its checks, its start and its effect. -/
theorem exec_eq_command (i : Instr) (s : State) : exec i s = s.command i (checkOf i) (startOf i) (effectOf i) := by
  cases i <;> rfl

/-- Off the engine's turn a command is issued. -/
theorem exec_issue {s : State} (i : Instr) (h : s.engineTurn = false) :
    exec i s = s.issue i (checkOf i) (startOf i) := by
  rw [exec_eq_command, State.command, h]; rfl

/-- On the engine's turn a command is completed. -/
theorem exec_engine {s : State} (i : Instr) (h : s.engineTurn = true) :
    exec i s = s.engineStep i (effectOf i) := by
  rw [exec_eq_command, State.command, h]; rfl

/-- An effect does not look at the agenda. -/
theorem effectOf_agenda {i : Instr} {c : Pending} {s u : State} (l : List Event)
    (h : effectOf i c { s with agenda := l } = .next u) : effectOf i c s = .next { u with agenda := s.agenda } := by
  cases i with
  | nop => simp only [effectOf, Host.Outcome.next.injEq] at h ⊢; subst h; rfl
  | powmod =>
    simp only [effectOf, effectPowmod] at h ⊢
    split at h
    · simp at h
    · next h0 => rw [if_neg h0]; simp only [Host.Outcome.next.injEq] at h ⊢; subst h; rfl
  | mrInit => simp only [effectOf, effectMrInit, Host.Outcome.next.injEq] at h ⊢; subst h; rfl
  | mrRound =>
    simp only [effectOf, effectMrRound] at h ⊢
    split at h
    · simp at h
    · next h0 => rw [if_neg h0]; simp only [Host.Outcome.next.injEq] at h ⊢; subst h; rfl
  | mrClear => simp only [effectOf, effectMrClear, Host.Outcome.next.injEq] at h ⊢; subst h; rfl

/-- What an effect leaves alone: everything but RES and the context. -/
theorem effectOf_frame {i : Instr} {c : Pending} {s u : State} (h : effectOf i c s = .next u) :
    u = { s with
      res := u.res
      mrn := u.mrn
      mrr := u.mrr
      mry := u.mry
      mrS := u.mrS
      mrRounds := u.mrRounds
      mrInit := u.mrInit
      mrDecided := u.mrDecided
      mrVerdict := u.mrVerdict } := by
  cases i with
  | nop => simp only [effectOf, Host.Outcome.next.injEq] at h; subst h; rfl
  | powmod =>
    simp only [effectOf, effectPowmod] at h
    split at h
    · simp at h
    · simp only [Host.Outcome.next.injEq] at h; subst h; rfl
  | mrInit => simp only [effectOf, effectMrInit, Host.Outcome.next.injEq] at h; subst h; rfl
  | mrRound =>
    simp only [effectOf, effectMrRound] at h
    split at h
    · simp at h
    · simp only [Host.Outcome.next.injEq] at h; subst h; rfl
  | mrClear => simp only [effectOf, effectMrClear, Host.Outcome.next.injEq] at h; subst h; rfl

end Sys2Proof.Machine
end

