-- ==== Sys2Proof/Laws/PerInstr.lean ====
section
/-! SUPPORT. The round trip of encoding, one lemma per command (30_encoding.md R61). -/

namespace Sys2Proof.Laws.RoundTrip

/-- A command's word decodes to the command, as a word and as bytes. -/
def Statement (i : Instr) : Prop :=
  i.wf = true ∧ decodeWord (encode i) = .instr i ∧ ∀ rest, decodeBytes (encodeBytes i ++ rest) = .instr i rest

theorem nop : Statement .nop := ⟨rfl, by decide, fun _ => rfl⟩

theorem powmod : Statement .powmod := ⟨rfl, by decide, fun _ => rfl⟩

theorem mrInit : Statement .mrInit := ⟨rfl, by decide, fun _ => rfl⟩

theorem mrRound : Statement .mrRound := ⟨rfl, by decide, fun _ => rfl⟩

theorem mrClear : Statement .mrClear := ⟨rfl, by decide, fun _ => rfl⟩

end Sys2Proof.Laws.RoundTrip
end

