-- ==== Sys2Proof/Laws/Step.lean ====
section
/-! SUPPORT. What a step can do, said once (`StepKind`), and which step each head of the agenda is. -/

namespace Sys2Proof.Machine

/-- A transaction that comes next is taken next. -/
theorem schedule_cons {s : State} {e : Event} {rest : List Event} (h : s.agenda = e :: rest) : s.schedule = s := by
  simp [State.schedule, h]

/-- An idle block with nothing to come stays as it is (60_exceptions.md R118). -/
theorem schedule_idle {s : State} (h : s.agenda = []) (hp : s.pend = none) : s.schedule = s := by
  simp [State.schedule, h, State.busy, hp]

/-- With nothing to come, the engine completes the command in flight (log 3). -/
theorem schedule_busy {s : State} {c : Pending} (h : s.agenda = []) (hp : s.pend = some c) :
    s.schedule = { s with agenda := [.engine] } := by
  simp [State.schedule, h, State.busy, hp]

/-- Which command a step belongs to: the one in flight, or the one a CMD write issues. -/
theorem fetch_cases {s : State} {i : Instr} (h : s.fetch = some i) :
    (∃ c rest, s.agenda = .engine :: rest ∧ s.pend = some c ∧ c.op = i) ∨
    (∃ off size st v rest, s.agenda = .write off size st v :: rest ∧ respOf off size (fullStrobes st) = .okay ∧
      locate off = .csr .cmd ∧ decodeWord v = .instr i) := by
  rcases ha : s.agenda with _ | ⟨e, rest⟩
  · simp [State.fetch, ha] at h
  · cases e with
    | engine =>
      rcases hp : s.pend with _ | c
      · simp [State.fetch, ha, hp] at h
      · simp [State.fetch, ha, hp] at h
        exact .inl ⟨c, rest, rfl, rfl, h⟩
    | hwReset => simp [State.fetch, ha, commandWord] at h
    | read off size => simp [State.fetch, ha, commandWord] at h
    | write off size st v =>
      right
      simp only [State.fetch, ha, commandWord] at h
      split at h
      · next v' hv =>
        split at hv
        · next h1 h2 =>
          simp only [Option.some.injEq] at hv
          subst hv
          rcases hd : decodeWord v with j | e
          · simp [hd] at h
            subst h
            exact ⟨off, size, st, v, rest, rfl, h1, h2, hd⟩
          · simp [hd] at h
        · simp at hv
      · simp at h

/-- A step whose event belongs to no command. -/
theorem step_other {s : State} {e : Event} {rest : List Event} (ha : s.agenda = e :: rest) (hf : s.fetch = none) :
    step s = .next s.otherStep := by
  simp [step, schedule_cons ha, hf]

/-- A CMD write of a command's word is that command (30_encoding.md R61). -/
theorem step_issue {s : State} {v : Word} {i : Instr} {rest : List Event}
    (ha : s.agenda = Script.wr cmdOffset v :: rest) (hd : decodeWord v = .instr i) : step s = exec i s := by
  have hf : s.fetch = some i := by
    unfold State.fetch
    rw [ha]
    simp only [Script.wr]
    rw [show commandWord (.write cmdOffset 4 0xF#4 v) = some v from rfl]
    simp [hd]
  simp [step, schedule_cons ha, hf]

/-- The engine's turn is the command in flight. -/
theorem step_engine {s : State} {c : Pending} {rest : List Event}
    (ha : s.agenda = .engine :: rest) (hp : s.pend = some c) : step s = exec c.op s := by
  have hf : s.fetch = some c.op := by simp [State.fetch, ha, hp]
  simp [step, schedule_cons ha, hf]

/-- With nothing to come, the command in flight is completed (log 3). -/
theorem step_silent {s : State} {c : Pending} (ha : s.agenda = []) (hp : s.pend = some c) :
    step s = exec c.op { s with agenda := [.engine] } := by
  have hf : ({ s with agenda := [.engine] } : State).fetch = some c.op := by simp [State.fetch, hp]
  simp [step, schedule_busy ha hp, hf]

/-- A read is answered. -/
theorem step_read {s : State} {off size : Nat} {rest : List Event} (ha : s.agenda = .read off size :: rest) :
    step s = .next (s.respond (s.busRead off size)).advance := by
  rw [step_other ha (by simp [State.fetch, ha, commandWord])]
  simp [State.otherStep, ha]

/-- A write that issues no command is performed. -/
theorem step_write {s : State} {off size : Nat} {st : BitVec 4} {v : Word} {rest : List Event}
    (ha : s.agenda = .write off size st v :: rest)
    (h : respOf off size (fullStrobes st) ≠ .okay ∨ locate off ≠ .csr .cmd ∨ ∃ e, decodeWord v = .rejected e) :
    step s = .next (s.busWrite off size st v).advance := by
  have hf : s.fetch = none := by
    rcases hf : s.fetch with _ | i
    · rfl
    · rcases fetch_cases hf with ⟨c, r, h1, -⟩ | ⟨off', size', st', v', r, h1, h2, h3, h4⟩
      · rw [ha] at h1
        simp at h1
      · rw [ha] at h1
        simp only [List.cons.injEq, Event.write.injEq] at h1
        obtain ⟨⟨rfl, rfl, rfl, rfl⟩, rfl⟩ := h1
        rcases h with h | h | ⟨e, h⟩
        · exact absurd h2 h
        · exact absurd h3 h
        · rw [h4] at h
          simp at h
  rw [step_other ha hf]
  simp [State.otherStep, ha]

/-- A write of a window word is performed (20_memory.md R48). -/
theorem step_write_window {s : State} {x : Window} {i off : Nat} {v : Word} {rest : List Event}
    (ha : s.agenda = Script.wr off v :: rest) (hl : locate off = .window x i) (h4 : off % 4 = 0) :
    step s = .next ((s.setWindowWord x i v).respond (.write .okay)).advance := by
  have hr : respOf off 4 (fullStrobes 0xF#4) = .okay := by
    simp only [respOf, hl, h4]
    rfl
  rw [step_write ha (.inr (.inl (by rw [hl]; simp))), State.busWrite, hr]
  simp only [hl, State.writeTarget]

/-- A pulse of rst_n. -/
theorem step_reset {s : State} {rest : List Event} (ha : s.agenda = .hwReset :: rest) :
    step s = .next s.hardReset.advance := by
  rw [step_other ha (by simp [State.fetch, ha, commandWord])]
  simp [State.otherStep, ha]

/-- Everything that leads a step from `s` to `t`. -/
inductive StepKind (s t : State) : Prop
  /-- The engine completes the command in flight. -/
  | complete (c : Pending) (u : State) (pend : s.pend = some c)
      (turn : s.agenda = [] ∨ ∃ rest, s.agenda = .engine :: rest)
      (effect : effectOf c.op c s = .next u) (result : t = u.complete.advance)
  /-- A CMD write issues a command. -/
  | issue (off size : Nat) (st : BitVec 4) (v : Word) (rest : List Event) (i : Instr)
      (head : s.agenda = .write off size st v :: rest) (resp : respOf off size (fullStrobes st) = .okay)
      (target : locate off = .csr .cmd) (word : decodeWord v = .instr i)
      (result : s.issue i (checkOf i) (startOf i) = .next t)
  /-- An idle block with nothing to come. -/
  | idle (head : s.agenda = []) (pend : s.pend = none) (result : t = s)
  /-- An engine turn with nothing in flight. -/
  | pass (rest : List Event) (head : s.agenda = .engine :: rest) (pend : s.pend = none) (result : t = s.advance)
  /-- A pulse of rst_n. -/
  | reset (rest : List Event) (head : s.agenda = .hwReset :: rest) (result : t = s.hardReset.advance)
  /-- A bus read. -/
  | read (off size : Nat) (rest : List Event) (head : s.agenda = .read off size :: rest)
      (result : t = (s.respond (s.busRead off size)).advance)
  /-- A bus write that issues no command. -/
  | write (off size : Nat) (st : BitVec 4) (v : Word) (rest : List Event)
      (head : s.agenda = .write off size st v :: rest)
      (word : respOf off size (fullStrobes st) = .okay → locate off = .csr .cmd → ∃ e, decodeWord v = .rejected e)
      (result : t = (s.busWrite off size st v).advance)

/-- Completing a command on the engine's turn. -/
theorem exec_engine_cases {s t : State} {c : Pending} {rest : List Event} (ha : s.agenda = .engine :: rest)
    (hp : s.pend = some c) (h : exec c.op s = .next t) : ∃ u, effectOf c.op c s = .next u ∧ t = u.complete.advance := by
  rw [exec_engine _ (by simp [State.engineTurn, ha])] at h
  rcases engineStep_cases h with ⟨c', u, h1, -, h3, h4⟩ | ⟨h1, -⟩
  · rw [hp] at h1
    simp only [Option.some.injEq] at h1
    subst h1
    exact ⟨u, h3, h4⟩
  · exact absurd rfl (h1 c hp)

/-- When the next step completes a command: on the engine's turn, or at the end of the agenda. -/
theorem completes_iff {s : State} {i : Instr} :
    s.Completes i ↔ (s.agenda = [] ∨ ∃ rest, s.agenda = .engine :: rest) ∧ ∃ c ∈ s.pend, c.op = i := by
  unfold State.Completes
  refine and_congr_left ?_
  rintro ⟨c, hc, -⟩
  rcases ha : s.agenda with _ | ⟨e, rest⟩
  · simp [schedule_busy ha hc, State.engineTurn]
  · cases e <;> simp [schedule_cons ha, State.engineTurn, ha]

/-- Everything a step can do. -/
theorem stepKind {s t : State} (h : step s = .next t) : StepKind s t := by
  rcases ha : s.agenda with _ | ⟨e, rest⟩
  · rcases hp : s.pend with _ | c
    · simp only [step, schedule_idle ha hp, State.fetch, ha, State.otherStep, Host.Outcome.next.injEq] at h
      exact .idle ha hp h.symm
    · rw [step_silent ha hp] at h
      obtain ⟨u, h1, rfl⟩ := exec_engine_cases (s := { s with agenda := [.engine] }) rfl hp h
      have hu : u.agenda = [.engine] := by rw [effectOf_frame h1]
      refine .complete c { u with agenda := s.agenda } hp (.inl ha) (effectOf_agenda _ h1) ?_
      simp [State.complete, State.advance, ha, hu]
  · rcases hf : s.fetch with _ | i
    · rw [step_other ha hf, Host.Outcome.next.injEq] at h
      subst h
      cases e with
      | engine =>
        rcases hp : s.pend with _ | c
        · exact .pass rest ha hp (by simp [State.otherStep, ha])
        · simp [State.fetch, ha, hp] at hf
      | hwReset => exact .reset rest ha (by simp [State.otherStep, ha])
      | read off size => exact .read off size rest ha (by simp [State.otherStep, ha])
      | write off size st v =>
        refine .write off size st v rest ha (fun h1 h2 => ?_) (by simp [State.otherStep, ha])
        rcases hd : decodeWord v with i | e
        · simp [State.fetch, ha, commandWord, h1, h2, hd] at hf
        · exact ⟨e, rfl⟩
    · have hs : step s = exec i s := by simp [step, schedule_cons ha, hf]
      rw [hs] at h
      rcases fetch_cases hf with ⟨c, r, h1, hp, rfl⟩ | ⟨off, size, st, v, r, h1, h2, h3, h4⟩
      · obtain ⟨u, h5, h6⟩ := exec_engine_cases h1 hp h
        exact .complete c u hp (.inr ⟨r, h1⟩) h5 h6
      · rw [exec_issue _ (by simp [State.engineTurn, h1])] at h
        exact .issue off size st v r i h1 h2 h3 h4 h

end Sys2Proof.Machine
end

