-- ==== Sys2Proof/Laws/Run.lean ====
section
/-! SUPPORT. Runs of the machine as chains of steps. -/

namespace Sys2Proof.Machine

/-- A run goes on from the state that its first step gives. -/
theorem run_succ {k : Nat} {s t : State} (h : step s = .next t) :
    Sys2Proof.core.run (k + 1) s = Sys2Proof.core.run k t := by
  have h' : Sys2Proof.core.step s = .next t := h
  simp only [Host.Core.run]
  rw [h']

/-- A run of `j + k` steps is a run of `k` steps from where the first `j` end. -/
theorem run_add {k : Nat} : ∀ {j : Nat} {s t : State}, Sys2Proof.core.run j s = .next t →
    Sys2Proof.core.run (j + k) s = Sys2Proof.core.run k t := by
  intro j
  induction j with
  | zero =>
    intro s t h
    have h' : s = t := Host.Outcome.next.inj h
    rw [h', Nat.zero_add]
  | succ j ih =>
    intro s t h
    rw [Nat.add_right_comm]
    rcases hs : step s with u | f | r
    · rw [run_succ hs] at h ⊢
      exact ih h
    · have hs' : Sys2Proof.core.step s = .fault f := hs
      simp only [Host.Core.run] at h
      rw [hs'] at h
      simp at h
    · have hs' : Sys2Proof.core.step s = .refused r := hs
      simp only [Host.Core.run] at h
      rw [hs'] at h
      simp at h

/-- Polling changes nothing but the answer (20_memory.md R47). -/
theorem run_polls (off size : Nat) (rest : List Event) : ∀ (polls : Nat) (s : State),
    s.agenda = List.replicate polls (.read off size) ++ rest →
    ∃ x, Sys2Proof.core.run polls s = .next ({ s with answer := x, agenda := rest } : State) := by
  intro polls
  induction polls with
  | zero =>
    intro s h
    refine ⟨s.answer, ?_⟩
    have h' : s.agenda = rest := h
    subst h'
    rfl
  | succ k ih =>
    intro s h
    rw [run_succ (step_read h)]
    obtain ⟨x, hx⟩ := ih (s.respond (s.busRead off size)).advance (by simp [State.respond, State.advance, h, List.replicate_succ])
    exact ⟨x, hx⟩

end Sys2Proof.Machine
end

