-- ==== Sys2Proof/Tests/Slice0.lean ====
section
/-! SUPPORT. Tests of the model. Words and expected values are written out from 30_encoding.md and from the vectors of
95_test_vectors.md (named by their ids); the witnesses of the last part meet the hypotheses of the statements. -/

namespace Sys2Proof.Tests

open Sys2Proof Sys2Proof.Machine

/-! ### Small states -/

/-- The state that a step leads to, if it leads to one. -/
def stepped (s : State) : Option State :=
  match step s with
  | .next t => some t
  | .fault _ => none
  | .refused _ => none

/-- The read answer of a step, if it is one. -/
def answered (s : State) : Option Answer := (stepped s).bind State.answer

/-- W = 32 just out of reset. -/
def fresh (agenda : List Event) : State := State.start ⟨1, 0⟩ agenda

/-- W = 32 with operands. -/
def withOperands (a d n : Nat) (agenda : List Event) : State := { fresh agenda with opa := a, opd := d, opn := n }

/-- W = 32 with a command in flight on the operands as they stand. -/
def inFlight (i : Instr) (a d n : Nat) (agenda : List Event) : State :=
  { withOperands a d n agenda with cmdLast := encode i, pend := some ⟨i, a, d, n⟩ }

/-- `s` with an undecided candidate loaded (42_miller_rabin.md R88). -/
def candidate (n r : Nat) (k : Word) (s : State) : State :=
  { s with mrn := n, mrr := r, mrS := k, mrInit := true, mrVerdict := true }

/-- `s` with a candidate that MR_INIT settled. -/
def settled (n : Nat) (verdict : Bool) (s : State) : State :=
  { s with mrn := n, mrInit := true, mrDecided := true, mrVerdict := verdict }

/-- A round in flight: candidate `n = 2^k r + 1`, witness `a`. -/
def roundInFlight (n r : Nat) (k : Word) (a : Nat) (agenda : List Event) : State :=
  candidate n r k (inFlight .mrRound a 0 n agenda)

/-! ### WellFormed refuses (00_scope.md R5, R6; 30_encoding.md R62, R63) -/

theorem test_build_width_zero_refused : (Build.mk 0 0).legal = false := by decide
theorem test_build_width_8224_refused : (Build.mk 257 0).legal = false := by decide
theorem test_build_misaligned_base_refused : (Build.mk 1 0x1000).legal = false := by decide
theorem test_build_bounds_accepted : (Build.mk 1 0).legal = true ∧ (Build.mk 256 0x2000).legal = true := by decide
theorem test_fields_opcode_five_refused : (CommandFields.mk 0x05#8 0#24).wf = false := by decide
theorem test_fields_reserved_bit_refused : (CommandFields.mk 0x03#8 1#24).wf = false := by decide
theorem test_fields_mr_clear_accepted : (CommandFields.mk 0x04#8 0#24).wf = true := by decide

/-! ### Decoding (30_encoding.md R59 to R64; each word is RSVD, then OPCODE) -/

theorem test_decode_nop : decodeWord (0b000000000000000000000000#24 ++ 0b00000000#8) = .instr .nop := by decide
theorem test_decode_powmod : decodeWord (0b000000000000000000000000#24 ++ 0b00000001#8) = .instr .powmod := by decide
theorem test_decode_mr_init : decodeWord (0b000000000000000000000000#24 ++ 0b00000010#8) = .instr .mrInit := by decide
theorem test_decode_mr_round : decodeWord (0b000000000000000000000000#24 ++ 0b00000011#8) = .instr .mrRound := by decide
theorem test_decode_mr_clear : decodeWord (0b000000000000000000000000#24 ++ 0b00000100#8) = .instr .mrClear := by decide

/-- L4 and L5: E_OPCODE wins over E_RSVD. L2 and L3. -/
theorem test_decode_illegal :
    decodeWord 0x00000005#32 = .rejected .unassignedOpcode ∧ decodeWord 0x00000103#32 = .rejected .reservedBits ∧
    decodeWord 0x00000105#32 = .rejected .unassignedOpcode ∧ decodeWord 0xFFFFFFFF#32 = .rejected .unassignedOpcode ∧
    decodeWord 0x80000000#32 = .rejected .reservedBits := by decide

/-- A word on the bus has its least significant byte in lane 0 (20_memory.md R41). -/
theorem test_decode_bytes :
    decodeBytes [0x04#8, 0#8, 0#8, 0#8, 0xAA#8] = .instr .mrClear [0xAA#8] ∧
    decodeBytes [0#8, 0#8, 0#8, 0x04#8] = .rejected .reservedBits ∧
    decodeBytes [0x04#8, 0#8, 0#8] = .rejected .truncated := by decide

theorem test_encode_words :
    encode .nop = 0x00000000#32 ∧ encode .powmod = 0x00000001#32 ∧ encode .mrInit = 0x00000002#32 ∧
    encode .mrRound = 0x00000003#32 ∧ encode .mrClear = 0x00000004#32 := by decide

theorem test_table_word_runs :
    decodeTableWord 32 2 = some .mrInit ∧
    (stepped (State.reset.withFetchWord 32 2)).map State.cmdLast = some 0x00000002#32 := by decide

/-! ### The bus (95_test_vectors.md B) -/

/-- B1 and B2. -/
theorem test_bus_constants :
    answered (fresh [Script.rd 0x000]) = some (.read 0x4D580007#32 .okay) ∧
    answered (State.start ⟨64, 0⟩ [Script.rd 0x004]) = some (.read 0x00000040#32 .okay) := by decide

/-- B4, B5, B6, B7. -/
theorem test_bus_errors :
    answered (fresh [Script.rd 0x020]) = some (.read 0#32 .decerr) ∧
    answered (fresh [Script.rd 0x2000]) = some (.read 0#32 .decerr) ∧
    answered (fresh [.read 0x001 4]) = some (.read 0#32 .slverr) ∧
    answered (fresh [.read 0x000 2]) = some (.read 0#32 .slverr) := by decide

/-- B8 and B9. -/
theorem test_bus_strobes_and_precedence :
    answered (fresh [.write 0x008 4 0b0001#4 1#32]) = some (.write .slverr) ∧
    (stepped (fresh [.write 0x008 4 0b0001#4 1#32])).map State.ieDone = some false ∧
    answered (fresh [.write 0x3FC 2 0xF#4 1#32]) = some (.write .decerr) := by decide

/-- B10: word 1 of OPA does not exist at W = 32. -/
theorem test_bus_word_above_width :
    (stepped (fresh [Script.wr 0x404 0x12345678#32])).map (fun t => (t.opa, t.windowWord .opa 1, t.answer)) =
      some (0, 0#32, some (.write .okay)) := by decide

/-- B13. -/
theorem test_bus_ctrl_reserved_bits :
    (stepped (fresh [Script.wr 0x008 0xFFFFFFF3#32])).map State.ctrlWord = some 0x00000003#32 := by decide

/-- B14 and B15 at W = 64. -/
theorem test_bus_word_order :
    (stepped (State.start ⟨2, 0⟩ [Script.wr 0x404 1#32])).map State.opa = some (2 ^ 32) ∧
    ({ State.start ⟨2, 0⟩ [] with opn := 0xFFFFFFFFFFFFFFC5 } : State).windowWord .opn 0 = 0xFFFFFFC5#32 ∧
    ({ State.start ⟨2, 0⟩ [] with opn := 0xFFFFFFFFFFFFFFC5 } : State).windowWord .opn 1 = 0xFFFFFFFF#32 := by decide

/-- B16. -/
theorem test_bus_byte_lanes :
    [0x400, 0x401, 0x402, 0x403].map (withOperands 0x11223344 0 0 []).byteAt =
      [some 0x44#8, some 0x33#8, some 0x22#8, some 0x11#8] := by decide

/-! ### Life cycle, errors, control (95_test_vectors.md L) -/

/-- L1. -/
theorem test_nop_done : (stepped (fresh [Script.wr 0x010 0#32])).map State.statusWord = some 0x2#32 := by decide

/-- L11: a NOP word while busy. -/
theorem test_nop_while_busy :
    (stepped (inFlight .powmod 4 13 497 [Script.wr 0x010 0#32])).map (fun t => (t.statusWord, t.cmdLast)) =
      some (0x105#32, 1#32) := by decide

/-- L2 and L3. -/
theorem test_illegal_words :
    (stepped (fresh [Script.wr 0x010 0x5#32])).map (fun t => (t.statusWord, t.cmdLast)) = some (0x206#32, 0x5#32) ∧
    (stepped (fresh [Script.wr 0x010 0x103#32])).map (fun t => (t.statusWord, t.cmdLast)) =
      some (0x306#32, 0x103#32) := by decide

/-- L14: ABORT in flight. L16: SRST with ABORT. -/
theorem test_ctrl_abort_and_srst :
    (stepped (inFlight .powmod 2 13 497 [Script.wr 0x008 0x4#32])).map (fun t => (t.statusWord, t.pend)) =
      some (0x806#32, none) ∧
    stepped (inFlight .powmod 2 13 497 [Script.wr 0x008 0xC#32]) =
      some { State.start ⟨1, 0⟩ [] with answer := some (.write .okay) } := by decide

/-- L8 and L9: the line follows the enables. L18: ERR alone is cleared. -/
theorem test_irq_and_status_write :
    ({ fresh [] with ieErr := true, err := true, errcode := .opcode, done := true } : State).statusWord = 0x20E#32 ∧
    (stepped { fresh [Script.wr 0x008 0#32] with ieErr := true, err := true, errcode := .opcode, done := true }).map
      State.statusWord = some 0x206#32 ∧
    (stepped { fresh [Script.wr 0x00C 0x4#32] with err := true, errcode := .noInit, done := true }).map
      State.statusWord = some 0x2#32 := by decide

/-- L17: the first code is kept. -/
theorem test_first_error_kept :
    (stepped { fresh [Script.wr 0x010 0x5#32] with err := true, errcode := .noInit, done := true }).map
      State.statusWord = some 0x506#32 := by decide

theorem test_hardware_reset :
    stepped (inFlight .powmod 2 13 497 [.hwReset]) = some (State.start ⟨1, 0⟩ []) := by decide

/-! ### POWMOD (95_test_vectors.md PM) -/

/-- L10, then PM1 with L12: the snapshot counts, not the live operand. -/
theorem test_powmod_accepts_and_completes :
    (stepped (withOperands 4 13 497 [Script.wr 0x010 1#32])).map (fun t => (t.statusWord, t.res)) = some (0x1#32, 0) ∧
    (stepped { inFlight .powmod 4 13 497 [.engine] with opa := 2 }).map (fun t => (t.statusWord, t.res)) =
      some (0x2#32, 445) := by decide

/-- PM4, PM5, PM11, PM13, and PM17 at 64 bits. -/
theorem test_powmod_values :
    powMod 0 0 5 = 1 ∧ powMod 7 0 1 = 0 ∧ powMod (2 ^ 32 - 1) (2 ^ 32 - 1) (2 ^ 32 - 1) = 0 ∧
    powMod 3 (2 ^ 32 - 1) (2 ^ 32 - 5) = 243 ∧
    powMod 0xDEADBEEF00000001 0x10001 (2 ^ 64 - 59) = 0x0D37E92AA416C3FD := by decide

/-- PM15. -/
theorem test_powmod_modulus_zero :
    (stepped (withOperands 5 5 0 [Script.wr 0x010 1#32])).map (fun t => (t.statusWord, t.res)) =
      some (0x406#32, 0) := by decide

/-! ### Miller-Rabin (95_test_vectors.md MR) -/

/-- MR-I10, and MR-I3 for the settled case. -/
theorem test_mr_init :
    (stepped (inFlight .mrInit 0 0 561 [.engine])).map (fun t => (t.mrStatusWord, t.mrr, t.mrS, t.mrn)) =
      some (5#32, 35, 4#32, 561) ∧
    (stepped (inFlight .mrInit 0 0 2 [.engine])).map (fun t => (t.mrStatusWord, t.mrr, t.mrS, t.mrn)) =
      some (7#32, 0, 0#32, 2) := by decide

/-- MR-I1, MR-I4, MR-I5, MR-I11, MR-I13. -/
theorem test_mr_load :
    mrLoad 0 = ⟨true, false, 0, 0⟩ ∧ mrLoad 3 = ⟨true, true, 0, 0⟩ ∧ mrLoad 4 = ⟨true, false, 0, 0⟩ ∧
    mrLoad (2 ^ 32 - 1) = ⟨false, true, 2147483647, 1⟩ ∧ mrLoad (2 ^ 31 + 1) = ⟨false, true, 1, 31⟩ := by decide

/-- MR-R4 (fails, `y` became 1) and MR-R2 (a liar passes). -/
theorem test_mr_round :
    (stepped (roundInFlight 561 35 4#32 2 [.engine])).map (fun t => (t.mrStatusWord, t.mry, t.mrRounds)) =
      some (3#32, 1, 1#32) ∧
    (stepped (roundInFlight 25 3 3#32 7 [.engine])).map (fun t => (t.mrStatusWord, t.mry, t.mrRounds)) =
      some (5#32, 24, 1#32) := by decide

/-- MR-R1, MR-R5, MR-R9, MR-R12, MR-R16. -/
theorem test_mr_round_values :
    mrRoundResult 2 9 1 3 = (false, 7) ∧ mrRoundResult 5 97 3 5 = (true, 96) ∧ mrRoundResult 2 7 3 1 = (true, 1) ∧
    mrRoundResult 4 15 7 1 = (false, 4) ∧ mrRoundResult 2 (2 ^ 32 - 1) 2147483647 1 = (false, 2147483648) := by decide

/-- MR-E1, MR-E5, MR-E8. -/
theorem test_mr_round_checks :
    (stepped (candidate 97 3 5#32 (withOperands 96 0 97 [Script.wr 0x010 3#32]))).map
      (fun t => (t.statusWord, t.mrRounds)) = some (0x706#32, 0#32) ∧
    (stepped (fresh [Script.wr 0x010 3#32])).map State.statusWord = some 0x506#32 ∧
    (stepped (settled 4 false (withOperands 0 0 4 [Script.wr 0x010 3#32]))).map State.statusWord =
      some 0x606#32 := by decide

/-- MR_ROUNDS saturates (42_miller_rabin.md R95). -/
theorem test_mr_rounds_saturate :
    satSucc 0xFFFFFFFE#32 = 0xFFFFFFFF#32 ∧ satSucc 0xFFFFFFFF#32 = 0xFFFFFFFF#32 := by decide

/-- MR-C1. -/
theorem test_mr_clear :
    (stepped (settled 561 false { inFlight .mrClear 2 0 561 [.engine] with mrRounds := 1#32, mry := 1 })).map
      (fun t => (t.mrStatusWord, t.mrn, t.mry, t.mrRounds, t.statusWord, t.opn)) =
      some (0#32, 0, 0, 0#32, 0x2#32, 561) := by decide

/-! ### Witnesses: for each statement with hypotheses, a state and operands that meet them all -/

/-- The invariant of a concrete state, from its decidable parts. -/
theorem inv_of_parts {s : State} (legal : s.build.legal = true) (fits : s.RegsFit)
    (errs : s.err = false ↔ s.errcode = .none) (context : s.ContextOk) (flight : s.PendOk) : s.Inv :=
  ⟨legal, fits, errs, context, flight⟩

theorem inv_fresh (agenda : List Event) : (fresh agenda).Inv :=
  have h : (fresh []).Inv := inv_of_parts (by decide) (by decide) (by decide) (by decide) (by decide)
  ⟨h.legal, h.fits, h.errs, h.context, h.flight⟩

theorem inv_round_97 : (roundInFlight 97 3 5#32 5 [.engine]).Inv :=
  inv_of_parts (by decide) (by decide) (by decide) (by decide) (by decide)

theorem inv_round_15 : (roundInFlight 15 7 1#32 3 [.engine]).Inv :=
  inv_of_parts (by decide) (by decide) (by decide) (by decide) (by decide)

theorem inv_powmod : (inFlight .powmod 4 13 497 []).Inv :=
  inv_of_parts (by decide) (by decide) (by decide) (by decide) (by decide)

theorem inv_settled_idle : (settled 9 false (fresh [Script.wr 0x400 7#32])).Inv :=
  inv_of_parts (by decide) (by decide) (by decide) (by decide) (by decide)

theorem witness_DecodeEncodeAgree :
    (∀ i : Instr, i = .nop ∨ i = .powmod ∨ i = .mrInit ∨ i = .mrRound ∨ i = .mrClear → i.wf = true) ∧
    decodeBytes [0x03#8, 0#8, 0#8, 0#8, 0x55#8] = .instr .mrRound [0x55#8] := by
  refine ⟨?_, by decide⟩
  rintro i (rfl | rfl | rfl | rfl | rfl) <;> rfl

theorem witness_StepRunsTheCommand :
    (∃ s v i rest, s.agenda = Script.wr 0x010 v :: rest ∧ decodeWord v = .instr i ∧ s = fresh [Script.wr 0x010 3#32]) ∧
    (∃ s c rest, s.agenda = .engine :: rest ∧ s.pend = some c ∧ s = inFlight .powmod 4 13 497 [.engine]) ∧
    (∃ s c, s.agenda = [] ∧ s.pend = some c ∧ s = inFlight .powmod 4 13 497 []) ∧
    (∃ nbits w i, decodeTableWord nbits w = some i ∧ nbits = 32 ∧ w = 4) :=
  ⟨⟨_, 3#32, .mrRound, [], rfl, by decide, rfl⟩, ⟨_, ⟨.powmod, 4, 13, 497⟩, [], rfl, rfl, rfl⟩,
    ⟨_, ⟨.powmod, 4, 13, 497⟩, rfl, rfl, rfl⟩, ⟨_, _, .mrClear, by decide, rfl, rfl⟩⟩

theorem witness_CmdWriteWhileBusyIsRejected :
    ∃ (s : State) (c : Pending) (v : Word) (rest : List Event), s.agenda = Script.wr 0x010 v :: rest ∧ s.pend = some c :=
  ⟨inFlight .powmod 4 13 497 [Script.wr 0x010 0xFFFFFFFF#32], ⟨.powmod, 4, 13, 497⟩, 0xFFFFFFFF#32, [], rfl, rfl⟩

/-- The lowest and highest OPCODE that is unassigned, and the lowest and highest reserved bit alone. -/
theorem witness_IllegalWordIsRefused :
    ∀ v ∈ [0x00000005#32, 0x000000FF#32, 0x00000104#32, 0x80000000#32],
      ∃ (s : State) (rest : List Event), s.agenda = Script.wr 0x010 v :: rest ∧ s.pend = none ∧ (4 < v.toNat % 256 ∨ v.toNat / 256 ≠ 0) := by
  intro v hv
  refine ⟨fresh [Script.wr 0x010 v], [], rfl, rfl, ?_⟩
  simp only [List.mem_cons, List.not_mem_nil, or_false] at hv
  rcases hv with rfl | rfl | rfl | rfl <;> decide

theorem witness_NopCompletesAtAcceptance :
    (fresh [Script.wr 0x010 0#32]).engineTurn = false ∧ (fresh [Script.wr 0x010 0#32]).pend = none ∧
    (inFlight .mrClear 0 0 0 [Script.wr 0x010 0#32]).engineTurn = false ∧
    (inFlight .mrClear 0 0 0 [Script.wr 0x010 0#32]).pend.isSome = true := by decide

/-- Modulus 1 is the least that POWMOD accepts. -/
theorem witness_UncheckedCommandsStart :
    ∀ i v, (i, v) ∈ [(Instr.powmod, 0x00000001#32), (.mrInit, 0x00000002#32), (.mrClear, 0x00000004#32)] →
      ∃ s : State, s.engineTurn = false ∧ s.pend = none ∧
        (i = .powmod ∧ s.opn ≠ 0 ∧ v = 0x00000001#32 ∨ i = .mrInit ∧ v = 0x00000002#32 ∨
          i = .mrClear ∧ v = 0x00000004#32) := by
  intro i v h
  refine ⟨withOperands 0 0 1 [Script.wr 0x010 v], rfl, rfl, ?_⟩
  simp only [List.mem_cons, Prod.mk.injEq, List.not_mem_nil, or_false] at h
  rcases h with ⟨rfl, rfl⟩ | ⟨rfl, rfl⟩ | ⟨rfl, rfl⟩ <;> decide

theorem witness_PowmodWithZeroModulusIsRefused :
    ∃ s : State, s.engineTurn = false ∧ s.pend = none ∧ s.opn = 0 := ⟨withOperands 5 5 0 [], rfl, rfl, rfl⟩

/-- The witnesses 2 and `n - 2` are the ends of the range. -/
theorem witness_RoundStartsWithinRange :
    ∀ a ∈ [2, 3], ∃ s : State, s.engineTurn = false ∧ s.pend = none ∧ s.mrInit = true ∧ s.mrDecided = false ∧
      2 ≤ s.opa ∧ s.opa + 2 ≤ s.mrn ∧ s.opa = a ∧ s.mrn = 5 := by
  intro a ha
  refine ⟨candidate 5 1 2#32 (withOperands a 0 5 []), rfl, rfl, rfl, rfl, ?_, ?_, rfl, rfl⟩ <;> revert a <;> decide

/-- One state for each error, and both sides of the witness range. -/
theorem witness_RoundIsRefusedInOrder :
    ∀ x ∈ [(ErrCode.noInit, fresh []), (.decided, settled 4 false (withOperands 0 0 4 [])),
        (.witness, candidate 5 1 2#32 (withOperands 1 0 5 [])), (.witness, candidate 5 1 2#32 (withOperands 4 0 5 []))],
      x.2.engineTurn = false ∧ x.2.pend = none ∧
      (x.1 = .noInit ∧ x.2.mrInit = false ∨ x.1 = .decided ∧ x.2.mrInit = true ∧ x.2.mrDecided = true ∨
        x.1 = .witness ∧ x.2.mrInit = true ∧ x.2.mrDecided = false ∧ (x.2.opa < 2 ∨ x.2.mrn < x.2.opa + 2)) := by
  decide

theorem witness_CmdWriteIsPrecise :
    (∃ s t v rest, s.agenda = Script.wr 0x010 v :: rest ∧ step s = .next t ∧ s.busy = true) ∧
    (∃ s t v rest, s.agenda = Script.wr 0x010 v :: rest ∧ step s = .next t ∧ s.busy = false ∧ t.pend = none) ∧
    (∃ s t v rest, s.agenda = Script.wr 0x010 v :: rest ∧ step s = .next t ∧ s.busy = false ∧ t.pend ≠ none) :=
  ⟨⟨inFlight .powmod 4 13 497 [Script.wr 0x010 2#32], _, 2#32, [], rfl, rfl, rfl⟩,
    ⟨fresh [Script.wr 0x010 5#32], _, 5#32, [], rfl, rfl, rfl, rfl⟩,
    ⟨fresh [Script.wr 0x010 2#32], _, 2#32, [], rfl, rfl, rfl, by decide⟩⟩

theorem witness_BusyFollowsTheLifecycle :
    (∃ s t, step s = .next t ∧ s.busy = false ∧ t.busy = true) ∧
    (∀ l ∈ [[], [.engine], [.hwReset], [Script.wr 0x008 0x4#32], [Script.wr 0x008 0xC#32]],
      ∃ s t, step s = .next t ∧ s.busy = true ∧ t.busy = false ∧ s.agenda = l) := by
  refine ⟨⟨withOperands 4 13 497 [Script.wr 0x010 1#32], _, rfl, rfl, rfl⟩, ?_⟩
  intro l h
  simp only [List.mem_cons, List.not_mem_nil, or_false] at h
  rcases h with rfl | rfl | rfl | rfl | rfl
  · exact ⟨inFlight .powmod 4 13 497 [], _, rfl, rfl, rfl, rfl⟩
  · exact ⟨inFlight .powmod 4 13 497 [.engine], _, rfl, rfl, rfl, rfl⟩
  · exact ⟨inFlight .powmod 4 13 497 [.hwReset], _, rfl, rfl, rfl, rfl⟩
  · exact ⟨inFlight .powmod 4 13 497 [Script.wr 0x008 0x4#32], _, rfl, rfl, rfl, rfl⟩
  · exact ⟨inFlight .powmod 4 13 497 [Script.wr 0x008 0xC#32], _, rfl, rfl, rfl, rfl⟩

theorem witness_PowLoopKeepsItsProduct :
    (0 < 497 ∧ bitlen 13 ≤ 4) ∧ (0 < 1 ∧ bitlen 0 ≤ 0) := by decide

theorem witness_PowmodComputesThePower :
    ∀ n ∈ [1, 497], ∃ (s : State) (a d : Nat), s.engineTurn = true ∧ s.pend = some ⟨.powmod, a, d, n⟩ ∧ 1 ≤ n := by
  intro n hn
  exact ⟨inFlight .powmod 4 13 n [.engine], 4, 13, rfl, rfl, by revert n; decide⟩

theorem witness_PowmodFrame :
    (∃ s t, exec .powmod s = .next t ∧ s.engineTurn = false) ∧
    (∃ s t, exec .powmod s = .next t ∧ s.engineTurn = true ∧ t.res ≠ s.res) :=
  ⟨⟨withOperands 4 13 497 [], _, rfl, rfl⟩, ⟨inFlight .powmod 4 13 497 [.engine], _, rfl, rfl, by decide⟩⟩

theorem witness_MrInitSettlesSmallAndEven :
    ∀ n ∈ [0, 1, 2, 3, 4], ∃ (s : State) (a d : Nat), s.engineTurn = true ∧ s.pend = some ⟨.mrInit, a, d, n⟩ ∧
      (n = 2 ∨ n = 3 ∨ n % 2 = 0 ∨ n < 2) := by
  intro n hn
  exact ⟨inFlight .mrInit 0 0 n [.engine], 0, 0, rfl, rfl, by revert n; decide⟩

/-- The least such candidate and, at W = 32, the ones with the largest shift count and the largest odd part. -/
theorem witness_MrInitDecomposes :
    ∀ n ∈ [5, 2 ^ 31 + 1, 2 ^ 32 - 1], ∃ (s : State) (a d : Nat), s.engineTurn = true ∧
      s.pend = some ⟨.mrInit, a, d, n⟩ ∧ n % 2 = 1 ∧ 5 ≤ n ∧ n < 2 ^ s.build.w := by
  intro n hn
  refine ⟨inFlight .mrInit 0 0 n [.engine], 0, 0, rfl, rfl, ?_⟩
  show n % 2 = 1 ∧ 5 ≤ n ∧ n < 2 ^ 32
  revert n
  decide

/-- MR-R9 (`a^r = 1`), MR-R10 (`a^r = n - 1` with one shift) and MR-R2 (`n - 1` at a squaring). -/
theorem witness_RoundPasses :
    ∀ x ∈ [(7, 3, 1, 2), (7, 3, 1, 5), (25, 3, 3, 7)],
      ∃ (s : State) (a d n : Nat), s.engineTurn = true ∧ s.pend = some ⟨.mrRound, a, d, n⟩ ∧
        5 ≤ s.mrn ∧ 1 ≤ s.mrS.toNat ∧
        (a ^ s.mrr % s.mrn = 1 ∨ ∃ j < s.mrS.toNat, a ^ (2 ^ j * s.mrr) % s.mrn = s.mrn - 1) := by
  intro x hx
  refine ⟨roundInFlight x.1 x.2.1 (BitVec.ofNat 32 x.2.2.1) x.2.2.2 [.engine], x.2.2.2, 0, x.1, rfl, rfl, ?_⟩
  show 5 ≤ x.1 ∧ 1 ≤ (BitVec.ofNat 32 x.2.2.1).toNat ∧ (x.2.2.2 ^ x.2.1 % x.1 = 1 ∨
    ∃ j < (BitVec.ofNat 32 x.2.2.1).toNat, x.2.2.2 ^ (2 ^ j * x.2.1) % x.1 = x.1 - 1)
  revert x
  decide

/-- MR-R1, and MR-R12 with no squaring. -/
theorem witness_RoundFails :
    ∀ x ∈ [(9, 1, 3, 2), (15, 7, 1, 4)],
      ∃ (s : State) (a d n : Nat), s.engineTurn = true ∧ s.pend = some ⟨.mrRound, a, d, n⟩ ∧
        5 ≤ s.mrn ∧ 1 ≤ s.mrS.toNat ∧
        ¬ (a ^ s.mrr % s.mrn = 1 ∨ ∃ j < s.mrS.toNat, a ^ (2 ^ j * s.mrr) % s.mrn = s.mrn - 1) := by
  intro x hx
  refine ⟨roundInFlight x.1 x.2.1 (BitVec.ofNat 32 x.2.2.1) x.2.2.2 [.engine], x.2.2.2, 0, x.1, rfl, rfl, ?_⟩
  show 5 ≤ x.1 ∧ 1 ≤ (BitVec.ofNat 32 x.2.2.1).toNat ∧ ¬ (x.2.2.2 ^ x.2.1 % x.1 = 1 ∨
    ∃ j < (BitVec.ofNat 32 x.2.2.1).toNat, x.2.2.2 ^ (2 ^ j * x.2.1) % x.1 = x.1 - 1)
  revert x
  decide

theorem witness_MrClearEmptiesTheContext :
    ∃ (s : State) (a d n : Nat), s.engineTurn = true ∧ s.pend = some ⟨.mrClear, a, d, n⟩ ∧ s.mrInit = true :=
  ⟨settled 9 false (inFlight .mrClear 1 2 3 [.engine]), 1, 2, 3, rfl, rfl, rfl⟩

theorem witness_MillerRabinFrame :
    ∀ i, (i = .mrInit ∨ i = .mrRound ∨ i = .mrClear) →
      (∃ s t, exec i s = .next t ∧ s.engineTurn = false) ∧ (∃ s t, exec i s = .next t ∧ s.engineTurn = true) := by
  rintro i (rfl | rfl | rfl)
  · exact ⟨⟨fresh [], _, rfl, rfl⟩, ⟨inFlight .mrInit 0 0 9 [.engine], _, rfl, rfl⟩⟩
  · exact ⟨⟨candidate 9 1 3#32 (withOperands 2 0 9 []), _, rfl, rfl⟩,
      ⟨roundInFlight 9 1 3#32 2 [.engine], _, rfl, rfl⟩⟩
  · exact ⟨⟨fresh [], _, rfl, rfl⟩, ⟨inFlight .mrClear 0 0 9 [.engine], _, rfl, rfl⟩⟩

theorem witness_NopFrame :
    ∃ s t, s.engineTurn = false ∧ exec .nop s = .next t ∧ t.done = true := ⟨fresh [], _, rfl, rfl, rfl⟩

theorem witness_RoundIgnoresLiveOperands :
    ∃ (s t : State) (a d n : Nat), s.engineTurn = true ∧ s.pend = some ⟨.mrRound, a, d, n⟩ ∧
      exec .mrRound s = .next t := ⟨roundInFlight 97 3 5#32 50 [.engine], _, 50, 0, 97, rfl, rfl, rfl⟩

theorem witness_PrimePassesEveryRound :
    ∃ (s : State) (a d n : Nat), s.Inv ∧ s.engineTurn = true ∧ s.pend = some ⟨.mrRound, a, d, n⟩ ∧ s.mrn.Prime :=
  ⟨_, 5, 0, 97, inv_round_97, rfl, rfl, by show Nat.Prime 97; norm_num⟩

theorem witness_SharedFactorFails :
    ∃ (s : State) (a d n : Nat), s.Inv ∧ s.engineTurn = true ∧ s.pend = some ⟨.mrRound, a, d, n⟩ ∧
      1 < Nat.gcd a s.mrn := ⟨_, 3, 0, 15, inv_round_15, rfl, rfl, by decide⟩

theorem witness_DecidedVerdictStays :
    ∃ s t, s.Inv ∧ step s = .next t ∧ s.mrDecided = true ∧ (∀ e ∈ s.agenda.head?, e.isReset = false) ∧
      (∀ c ∈ s.pend, c.op ≠ .mrInit ∧ c.op ≠ .mrClear) :=
  ⟨_, _, inv_settled_idle, rfl, rfl, by decide, by decide⟩

/-- The counter at its top under a round and under a read, a round from 0, and each kind of step that sets it to 0, one
of them at the end of the agenda. -/
theorem witness_RoundCounterNeverWraps :
    (∃ s t, step s = .next t ∧ s.Completes .mrRound ∧ s.mrRounds = 0xFFFFFFFF#32 ∧
      (∀ e ∈ s.agenda.head?, e.isReset = false) ∧ s.pend.map Pending.op = some .mrRound) ∧
    (∃ s t, step s = .next t ∧ s.Completes .mrRound ∧ s.mrRounds = 0#32) ∧
    (∃ s t, step s = .next t ∧ s.agenda = [Script.rd 0x01C] ∧ s.mrRounds = 0xFFFFFFFF#32) ∧
    (∃ s t, step s = .next t ∧ s.Completes .mrInit ∧ s.mrRounds = 1#32) ∧
    (∃ s t, step s = .next t ∧ s.Completes .mrClear ∧ s.agenda = [] ∧ s.mrRounds = 1#32) ∧
    (∃ s t, step s = .next t ∧ (∃ e ∈ s.agenda.head?, e.isReset = true) ∧ s.mrRounds = 1#32) :=
  ⟨⟨{ roundInFlight 97 3 5#32 5 [.engine] with mrRounds := 0xFFFFFFFF#32 }, _, rfl, ⟨rfl, _, rfl, rfl⟩, rfl,
      by decide, rfl⟩,
    ⟨roundInFlight 97 3 5#32 5 [.engine], _, rfl, ⟨rfl, _, rfl, rfl⟩, rfl⟩,
    ⟨{ fresh [Script.rd 0x01C] with mrRounds := 0xFFFFFFFF#32 }, _, rfl, rfl, rfl⟩,
    ⟨{ inFlight .mrInit 0 0 9 [.engine] with mrRounds := 1#32 }, _, rfl, ⟨rfl, _, rfl, rfl⟩, rfl⟩,
    ⟨{ inFlight .mrClear 0 0 9 [] with mrRounds := 1#32 }, _, rfl, ⟨rfl, _, rfl, rfl⟩, rfl, rfl⟩,
    ⟨{ fresh [Script.wr 0x008 0x8#32] with mrRounds := 1#32 }, _, rfl, ⟨_, rfl, by decide⟩, rfl⟩⟩

/-- With no witness, with a liar and differing polls, and for a settled candidate. -/
theorem witness_HostIsPrimeDecidesByItsRounds :
    (fresh []).Inv ∧ (fresh []).pend = none ∧
    (∀ x ∈ [((9 : Nat), ([] : List (Nat × Nat))), (25, [(7, 0), (2, 3)]), (4, []), (2 ^ 32 - 1, [(2, 1), (2 ^ 32 - 3, 0)])],
      x.1 < 2 ^ (fresh []).build.w ∧ (x.1 % 2 = 1 → 5 ≤ x.1 → ∀ a ∈ x.2, 2 ≤ a.1 ∧ a.1 + 2 ≤ x.1)) :=
  ⟨inv_fresh [], rfl, by decide⟩

theorem witness_ResultsChangeOnlyAtCompletion :
    (∃ s t e rest, s.agenda = e :: rest ∧ e.mayChangeResults = false ∧ step s = .next t ∧
      s = inFlight .powmod 4 13 497 [Script.wr 0x008 0x4#32]) ∧
    (∃ s t e rest, s.agenda = e :: rest ∧ e.mayChangeResults = false ∧ step s = .next t ∧
      s = fresh [.write 0x008 4 0x7#4 0x8#32]) :=
  ⟨⟨_, _, _, [], rfl, by decide, rfl, rfl⟩, ⟨_, _, _, [], rfl, by decide, rfl, rfl⟩⟩

/-- The first and the last word of the operand windows. -/
theorem witness_OperandWritesDoNotReachTheCommandInFlight :
    ∀ off ∈ [0x400, 0xFFC], ∃ (s t : State) (c : Pending) (v : Word) (rest : List Event), s.pend = some c ∧ 0x400 ≤ off ∧ off < 0x1000 ∧ off % 4 = 0 ∧
      Sys2Proof.core.run 2 ({ s with agenda := .engine :: Script.wr off v :: rest } : State) = .next t := by
  intro off h
  simp only [List.mem_cons, List.not_mem_nil, or_false] at h
  rcases h with rfl | rfl <;>
    exact ⟨inFlight .powmod 4 13 497 [], _, ⟨.powmod, 4, 13, 497⟩, 2#32, [], rfl, by decide, by decide, by decide, rfl⟩

theorem witness_BuildNeverChanges : ∃ s t, step s = .next t ∧ s.agenda = [.hwReset] :=
  ⟨fresh [.hwReset], _, rfl, rfl⟩

theorem witness_FirstErrorCodeIsKept :
    ∃ s t, step s = .next t ∧ s.err = true ∧ (∀ e ∈ s.agenda.head?, e.mayClearErr = false) ∧ s.errcode = .noInit :=
  ⟨{ fresh [Script.wr 0x010 0x5#32] with err := true, errcode := .noInit }, _, rfl, rfl, by decide, rfl⟩

/-- The ends of the two ranges that a read may select. -/
theorem witness_ReadsHaveNoSideEffect :
    ∀ off ∈ [0x000, 0x01C, 0x400, 0x1FFC], ∃ (s : State) (rest : List Event), s.agenda = Script.rd off :: rest ∧
      off % 4 = 0 ∧ (off < 0x020 ∨ 0x400 ≤ off ∧ off < 0x2000) := by
  intro off h
  exact ⟨fresh [Script.rd off], [], rfl, by revert off; decide⟩

theorem witness_RegisterMapReads :
    ∃ (s : State) (word : Nat → Nat), ∀ off, word off = (s.targetWord (locate off)).toNat :=
  ⟨fresh [], fun off => ((fresh []).targetWord (locate off)).toNat, fun _ => rfl⟩

/-- The first and the last word of the first and the last window. -/
theorem witness_WindowWordsAreTheRegister :
    ∀ x ∈ [(Window.opa, 0x400, 7), (.mry, 0x1C00, 0)], ∃ s : State,
      x ∈ [(Window.opa, 0x400, s.opa), (.opd, 0x800, s.opd), (.opn, 0xC00, s.opn), (.res, 0x1000, s.res),
        (.mrn, 0x1400, s.mrn), (.mrr, 0x1800, s.mrr), (.mry, 0x1C00, s.mry)] ∧ 0 < 256 ∧ 255 < 256 := by
  intro x h
  exact ⟨withOperands 7 0 0 [], by revert x; decide⟩

theorem witness_WordsRebuildTheRegister : 0xFFFFFFFFFFFFFFFF < 2 ^ (32 * 2) ∧ 0 < 2 ^ (32 * 0) := by decide

/-- DECERR at both ends of the reserved range and beyond the aperture; SLVERR by size and by alignment at the ends of
the block's ranges. -/
theorem witness_BusErrorsChangeNothing :
    (∀ x ∈ [(0x020, 4), (0x3FF, 1), (0x2000, 4)], ∃ (s : State) (rest : List Event),
      s.agenda = .read x.1 x.2 :: rest ∧ (0x020 ≤ x.1 ∧ x.1 < 0x400 ∨ 0x2000 ≤ x.1)) ∧
    (∀ x ∈ [(0x000, 2), (0x01F, 4), (0x400, 8), (0x1FFF, 4)], ∃ (s : State) (rest : List Event),
      s.agenda = .read x.1 x.2 :: rest ∧ (x.1 < 0x020 ∨ 0x400 ≤ x.1 ∧ x.1 < 0x2000) ∧ (x.2 ≠ 4 ∨ x.1 % 4 ≠ 0)) := by
  constructor <;> intro x hx <;> exact ⟨fresh [.read x.1 x.2], [], rfl, by revert x; decide⟩

/-- B9; and a write that only lacks a strobe. -/
theorem witness_BusErrorsChangeNothing_write :
    (∃ (s : State) (off size : Nat) (strobes : BitVec 4) (v : Word) (rest : List Event),
      s.agenda = .write off size strobes v :: rest ∧ (0x020 ≤ off ∧ off < 0x400) ∧ size = 2) ∧
    (∃ (s : State) (off size : Nat) (strobes : BitVec 4) (v : Word) (rest : List Event),
      s.agenda = .write off size strobes v :: rest ∧ off < 0x020 ∧ size = 4 ∧ off % 4 = 0 ∧ strobes ≠ 0xF#4) :=
  ⟨⟨fresh [.write 0x3FC 2 0xF#4 1#32], 0x3FC, 2, 0xF#4, 1#32, [], rfl, by decide, rfl⟩,
    ⟨fresh [.write 0x008 4 0b0001#4 1#32], 0x008, 4, 0b0001#4, 1#32, [], rfl, by decide, rfl, rfl, by decide⟩⟩

theorem witness_PartialStrobesAreRefused :
    ∀ off ∈ [0x010, 0x400, 0x1FFC], ∃ (s : State) (strobes : BitVec 4) (v : Word) (rest : List Event),
      s.agenda = .write off 4 strobes v :: rest ∧ off % 4 = 0 ∧ (off < 0x020 ∨ 0x400 ≤ off ∧ off < 0x2000) ∧
        strobes ≠ 0xF#4 := by
  intro off h
  exact ⟨fresh [.write off 4 0x7#4 1#32], 0x7#4, 1#32, [], rfl, by revert off; decide, by revert off; decide, by decide⟩

/-- The only word at W = 32, and the last one at W = 8192. -/
theorem witness_OperandWordWrite :
    (∃ (s : State) (x : Window) (i : Nat) (v : Word) (rest : List Event),
      s.agenda = Script.wr (Script.windowBase x + 4 * i) v :: rest ∧ x.isOperand = true ∧ i < s.build.nw ∧ i < 256 ∧
        i = 0) ∧
    (∃ (s : State) (x : Window) (i : Nat) (v : Word) (rest : List Event),
      s.agenda = Script.wr (Script.windowBase x + 4 * i) v :: rest ∧ x.isOperand = true ∧ i < s.build.nw ∧ i < 256 ∧
        i = 255) :=
  ⟨⟨fresh [Script.wr 0x400 7#32], .opa, 0, 7#32, [], rfl, rfl, by decide, by decide, rfl⟩,
    ⟨State.start ⟨256, 0⟩ [Script.wr 0xFFC 7#32], .opn, 255, 7#32, [], rfl, rfl, by decide, by decide, rfl⟩⟩

/-- A read-only register, a read-only window, and an operand word at NW. -/
theorem witness_IgnoredWritesAnswerOkay :
    ∀ off ∈ [0x000, 0x1000, 0x404], ∃ (s : State) (v : Word) (rest : List Event), s.agenda = Script.wr off v :: rest ∧
      off % 4 = 0 ∧
      ((∃ r, locate off = .csr r ∧ r.isReadOnly = true) ∨
        (∃ x i, locate off = .window x i ∧ (x.isOperand = false ∨ s.build.nw ≤ i))) := by
  intro off h
  simp only [List.mem_cons, List.not_mem_nil, or_false] at h
  rcases h with rfl | rfl | rfl
  · exact ⟨fresh [Script.wr 0x000 1#32], 1#32, [], rfl, rfl, .inl ⟨.id, by decide, rfl⟩⟩
  · exact ⟨fresh [Script.wr 0x1000 1#32], 1#32, [], rfl, rfl, .inr ⟨.res, 0, by decide, .inl rfl⟩⟩
  · exact ⟨fresh [Script.wr 0x404 1#32], 1#32, [], rfl, rfl, .inr ⟨.opa, 1, by decide, .inr (by decide)⟩⟩

theorem witness_IgnoredWritesAnswerOkay_reserved :
    0xFFFFFFF3#32 &&& 0xF#32 = 0x00000003#32 &&& 0xF#32 ∧ 0xFFFFFFF9#32 &&& 0x6#32 = 0x00000000#32 &&& 0x6#32 := by
  decide

theorem witness_LoadSetsTheOperand :
    ∃ (s : State) (x : Window) (value : Nat) (rest : List Event), s.build.legal = true ∧ s.RegsFit ∧
      x.isOperand = true ∧ value < 2 ^ s.build.w ∧ s.agenda = Script.ld s.build.nw x value ++ rest :=
  ⟨State.start ⟨2, 0⟩ (Script.ld 2 .opn (2 ^ 64 - 59) ++ [.engine]), .opn, 2 ^ 64 - 59, [.engine], by decide,
    by decide, rfl, by decide, rfl⟩

theorem witness_CtrlWriteSetsEnablesAndAborts :
    (∃ (s : State) (v : Word) (rest : List Event) (c : Pending), s.agenda = Script.wr 0x008 v :: rest ∧ v.getLsbD 3 = false ∧ v.getLsbD 2 = true ∧ s.pend = some c) ∧
    (∃ (s : State) (v : Word) (rest : List Event), s.agenda = Script.wr 0x008 v :: rest ∧ v.getLsbD 3 = false ∧ v.getLsbD 2 = true ∧ s.pend = none) ∧
    (∃ (s : State) (v : Word) (rest : List Event), s.agenda = Script.wr 0x008 v :: rest ∧ v.getLsbD 3 = false ∧ v.getLsbD 2 = false ∧ s.pend ≠ none) :=
  ⟨⟨inFlight .powmod 4 13 497 [Script.wr 0x008 7#32], 7#32, [], _, rfl, by decide, by decide, rfl⟩,
    ⟨fresh [Script.wr 0x008 4#32], 4#32, [], rfl, by decide, by decide, rfl⟩,
    ⟨inFlight .powmod 4 13 497 [Script.wr 0x008 3#32], 3#32, [], rfl, by decide, by decide, by decide⟩⟩

theorem witness_StatusWriteClears : ∃ (s : State) (v : Word) (rest : List Event), s.agenda = Script.wr 0x00C v :: rest :=
  ⟨fresh [Script.wr 0x00C 6#32], 6#32, [], rfl⟩

theorem witness_InterruptLineFollowsItsSources :
    ∃ (s : State) (v : Word) (rest : List Event), s.agenda = Script.wr 0x008 v :: rest ∧ v.getLsbD 3 = false ∧
      v.getLsbD 2 = false ∧ s.done = true ∧ v.getLsbD 0 = true :=
  ⟨{ fresh [Script.wr 0x008 1#32] with done := true }, 1#32, [], rfl, by decide, by decide, rfl, by decide⟩

theorem witness_RaiseRecordsTheFirstError :
    (fresh []).err = false ∧ ({ fresh [] with err := true, errcode := .busy } : State).err = true := by decide

/-- States outside the invariant on which the two commands stop. -/
theorem witness_OnlyAZeroModulusStops :
    exec .powmod (inFlight .powmod 4 13 0 [.engine]) = .fault .modulusZero ∧
    exec .mrRound (inFlight .mrRound 4 13 0 [.engine]) = .fault .modulusZero := ⟨rfl, rfl⟩

theorem witness_ResetReadsAsTheTable : ∃ (b : Build) (s : State), s = State.resetOf b := ⟨⟨64, 0x2000⟩, _, rfl⟩

theorem witness_ResetsReachTheResetState :
    (∃ (s : State) (rest : List Event), s.agenda = .hwReset :: rest) ∧
    (∃ (s : State) (v : Word) (rest : List Event), s.agenda = Script.wr 0x008 v :: rest ∧ v.getLsbD 3 = true ∧
      v = 0x8#32) ∧
    (∃ (s : State) (v : Word) (rest : List Event), s.agenda = Script.wr 0x008 v :: rest ∧ v.getLsbD 3 = true ∧
      v = 0xF#32) :=
  ⟨⟨fresh [.hwReset], [], rfl⟩, ⟨fresh [Script.wr 0x008 0x8#32], _, [], rfl, by decide, rfl⟩,
    ⟨fresh [Script.wr 0x008 0xF#32], _, [], rfl, by decide, rfl⟩⟩

theorem witness_ResettingTwiceIsResettingOnce :
    (fresh [.engine]).build = (inFlight .powmod 4 13 497 []).build ∧
    (fresh [.engine]) ≠ inFlight .powmod 4 13 497 [] := by decide

theorem witness_ResetMeetsTheInvariant : (Build.mk 1 0).legal = true ∧ (Build.mk 256 0x4000).legal = true := by decide

theorem witness_StepKeepsTheInvariant :
    ∃ s t, s.Inv ∧ step s = .next t ∧ t.mrRounds ≠ s.mrRounds := ⟨_, _, inv_round_97, rfl, by decide⟩

theorem witness_InvariantStatesNeverStop : ∃ s : State, s.Inv ∧ s.busy = true := ⟨_, inv_powmod, rfl⟩

theorem witness_RunsFromResetGoOn : (Build.mk 64 0x2000).legal = true := by decide

theorem witness_DoneIsLowWhileBusy :
    ∃ (b : Build) (agenda : List Event) (k : Nat) (t : State), b.legal = true ∧
      Sys2Proof.core.run k (State.start b agenda) = .next t ∧ t.busy = true :=
  ⟨⟨1, 0⟩, [Script.wr 0x010 2#32], 1, _, by decide, rfl, rfl⟩

theorem witness_EveryCommandCompletes : ∃ s : State, s.Inv ∧ s.busy = true ∧ s.agenda = [] :=
  ⟨_, inv_powmod, rfl, rfl⟩

/-- An operand left, reset and written at its window; and both ends of what lies outside the windows. -/
theorem witness_WBitValuesPassOnlyThroughTheWindows :
    (∀ l ∈ [[], [.hwReset], [Script.wr 0xC00 7#32]], ∃ s t, step s = .next t ∧ s.agenda = l ∧ s.opn = 497) ∧
    Window.opn.isOperand = true ∧
    (∀ off ∈ [0x000, 0x3FF, 0x2000], off < 0x400 ∨ 0x2000 ≤ off) := by
  refine ⟨?_, rfl, by decide⟩
  intro l h
  simp only [List.mem_cons, List.not_mem_nil, or_false] at h
  rcases h with rfl | rfl | rfl <;> exact ⟨withOperands 4 13 497 _, _, rfl, rfl, rfl⟩

end Sys2Proof.Tests
end

section
/-! Proofs for the family 00_scope.md: when `exec` stops (R12, R81), and the invariant over every step (R13, R22, R88,
R92, R128). -/

namespace Sys2Proof.Machine

/-! ### When a command stops -/

/-- The issue half of a command always gives a next state. -/
theorem issue_eq_next (i : Instr) (check : Pending → State → Option ErrCode) (start : Pending → State → State)
    (s : State) : ∃ t, s.issue i check start = .next t := ⟨_, rfl⟩

/-- The engine half of a command faults exactly when the effect of the command in flight does. -/
theorem engineStep_eq_fault_iff {i effect} {s : State} {f : Fault} :
    s.engineStep i effect = .fault f ↔ ∃ c, s.pend = some c ∧ c.op = i ∧ effect c s = .fault f := by
  rcases hp : s.pend with _ | c
  · simp [State.engineStep, hp]
  · by_cases ho : c.op = i
    · rcases he : effect c s <;> simp [State.engineStep, hp, ho, he]
    · simp [State.engineStep, hp, ho]

/-- The engine half of a command refuses only what the effect of the command in flight refuses. -/
theorem engineStep_eq_refused {i effect} {s : State} {r : Refusal} (h : s.engineStep i effect = .refused r) :
    ∃ c, effect c s = .refused r := by
  rcases hp : s.pend with _ | c
  · simp [State.engineStep, hp] at h
  · by_cases ho : c.op = i
    · rcases he : effect c s <;> simp [State.engineStep, hp, ho, he] at h
      exact ⟨c, by rw [he, h]⟩
    · simp [State.engineStep, hp, ho] at h

/-- The effects that stop: POWMOD and MR_ROUND with modulus 0 (41_powmod.md R81, log 9). -/
theorem effectOf_eq_fault_iff {i : Instr} {c : Pending} {s : State} {f : Fault} :
    effectOf i c s = .fault f ↔ i = .powmod ∧ c.n = 0 ∨ i = .mrRound ∧ s.mrn = 0 := by
  cases i with
  | nop => simp [effectOf]
  | powmod => by_cases hn : c.n = 0 <;> simp [effectOf, effectPowmod, hn]
  | mrInit => simp [effectOf, effectMrInit]
  | mrRound => by_cases hn : s.mrn = 0 <;> simp [effectOf, effectMrRound, hn]
  | mrClear => simp [effectOf, effectMrClear]

/-- No effect refuses its command. -/
theorem effectOf_ne_refused (i : Instr) (c : Pending) (s : State) (r : Refusal) : effectOf i c s ≠ .refused r := by
  cases i with
  | nop => simp [effectOf]
  | powmod => by_cases hn : c.n = 0 <;> simp [effectOf, effectPowmod, hn]
  | mrInit => simp [effectOf, effectMrInit]
  | mrRound => by_cases hn : s.mrn = 0 <;> simp [effectOf, effectMrRound, hn]
  | mrClear => simp [effectOf, effectMrClear]

/-- Settles O47: the issue half never stops, and the engine half stops as the effect of the command in flight does. -/
theorem onlyAZeroModulusStops : Obligations.OnlyAZeroModulusStops := by
  intro i s
  cases ht : s.engineTurn with
  | false =>
    obtain ⟨t, h⟩ := issue_eq_next i (checkOf i) (startOf i) s
    simp [exec_issue i ht, h]
  | true =>
    rw [exec_engine i ht]
    refine ⟨fun f => by simp [engineStep_eq_fault_iff, effectOf_eq_fault_iff], fun r h => ?_⟩
    obtain ⟨c, hc⟩ := engineStep_eq_refused h
    exact effectOf_ne_refused i c s r hc

/-! ### What the engine computes fits its registers (00_scope.md R13) -/

/-- A result of POWMOD lies below its modulus (41_powmod.md R83). -/
theorem powMod_lt (a d : Nat) {n : Nat} (h : 0 < n) : powMod a d n < n := Nat.mod_lt _ h

/-- The squaring loop stops below the candidate if it starts there. -/
theorem squareLoop_stopped_lt {n : Nat} (hn : 0 < n) :
    ∀ {k y z : Nat}, y < n → squareLoop n k y = .stopped z → z < n := by
  intro k
  induction k with
  | zero =>
    intro y z hy h
    simp only [squareLoop, LoopEnd.stopped.injEq] at h
    exact h ▸ hy
  | succ k ih =>
    intro y z _ h
    have hsq : y * y % n < n := Nat.mod_lt _ hn
    simp only [squareLoop] at h
    split at h
    · simp at h
    · split at h
      · simp only [LoopEnd.stopped.injEq] at h
        exact h ▸ hsq
      · exact ih hsq h

/-- The final `y` of a round lies below the candidate (42_miller_rabin.md R93). -/
theorem mrRoundResult_lt (a r s : Nat) {n : Nat} (hn : 1 < n) : (mrRoundResult a n r s).2 < n := by
  have hy : powMod a r n < n := powMod_lt a r (by omega)
  unfold mrRoundResult
  split
  · exact hy
  · split
    · exact hn
    · next z hz =>
      have hz' : z < n := squareLoop_stopped_lt (by omega) hy hz
      split <;> exact hz'

/-- The operand width of a legal build fits a 32-bit word (00_scope.md R5). -/
theorem Build.w_lt_of_legal {b : Build} (h : b.legal = true) : b.w < 2 ^ 32 := by
  simp only [Build.legal, Bool.and_eq_true, decide_eq_true_eq] at h
  unfold Build.w
  omega

/-- The shift count and the odd part of a candidate within W bits: the odd part lies below the candidate and the
count below W (10_state.md R29). -/
theorem decomposition_bounds {n r k w : Nat} (h5 : 5 ≤ n) (hn : n < 2 ^ w) (h : n - 1 = 2 ^ k * r) :
    r < n ∧ k < w := by
  have hr : 0 < r := Nat.pos_of_ne_zero (by rintro rfl; omega)
  have hle : r ≤ 2 ^ k * r := Nat.le_mul_of_pos_left r (by positivity)
  have hpow : 2 ^ k ≤ 2 ^ k * r := Nat.le_mul_of_pos_right _ hr
  exact ⟨by omega, (Nat.pow_lt_pow_iff_right (by norm_num)).mp (by omega : 2 ^ k < 2 ^ w)⟩

/-! ### The shared operations keep the invariant -/

/-- Nothing is asked of an idle block's flight. -/
theorem pendOk_of_idle {s : State} (h : s.pend = none) : s.PendOk := by simp [State.PendOk, h]

/-- The reset state of a legal build meets the invariant (70_reset_and_hazards.md R120). -/
theorem inv_resetOf {b : Build} (h : b.legal = true) : (State.resetOf b).Inv where
  legal := h
  fits := by simp [State.RegsFit]
  errs := by simp
  context := by simp [State.ContextOk]
  flight := pendOk_of_idle rfl

/-- The invariant does not look at the agenda. -/
theorem State.Inv.advance {s : State} (h : s.Inv) : s.advance.Inv := ⟨h.legal, h.fits, h.errs, h.context, h.flight⟩

/-- The invariant does not look at the port's last answer. -/
theorem State.Inv.respond {s : State} (h : s.Inv) (x : Answer) : (s.respond x).Inv :=
  ⟨h.legal, h.fits, h.errs, h.context, h.flight⟩

/-- A soft reset reaches the reset state of the build (70_reset_and_hazards.md R121). -/
theorem State.Inv.toReset {s : State} (h : s.Inv) : s.toReset.Inv :=
  have hr := inv_resetOf h.legal
  ⟨hr.legal, hr.fits, hr.errs, hr.context, hr.flight⟩

/-- A pulse of rst_n reaches it too (70_reset_and_hazards.md R119). -/
theorem State.Inv.hardReset {s : State} (h : s.Inv) : s.hardReset.Inv :=
  have hr := h.toReset
  ⟨hr.legal, hr.fits, hr.errs, hr.context, hr.flight⟩

/-- Recording an error keeps ERR and ERRCODE together (60_exceptions.md R106). -/
theorem State.Inv.raise {s : State} (h : s.Inv) {e : ErrCode} (he : e ≠ .none) : (s.raise e).Inv where
  legal := h.legal
  fits := h.fits
  errs := by
    have herrs := h.errs
    cases hs : s.err with
    | false => simp [hs, he]
    | true => simpa [hs] using herrs
  context := h.context
  flight := h.flight

theorem State.Inv.clearErr {s : State} (h : s.Inv) : s.clearErr.Inv :=
  ⟨h.legal, h.fits, by simp, h.context, h.flight⟩

theorem State.Inv.setEnables {s : State} (h : s.Inv) (d e : Bool) : (s.setEnables d e).Inv :=
  ⟨h.legal, h.fits, h.errs, h.context, h.flight⟩

/-- Clearing DONE is safe at any time: DONE is 0 in flight as it is (70_reset_and_hazards.md R128). -/
theorem State.Inv.clearDone {s : State} (h : s.Inv) : s.clearDone.Inv where
  legal := h.legal
  fits := h.fits
  errs := h.errs
  context := h.context
  flight := fun c hc =>
    have ⟨hop, hfit, _, hword, hmod, hround⟩ := h.flight c hc
    ⟨hop, hfit, rfl, hword, hmod, hround⟩

/-- An idle block may accept a word. -/
theorem State.Inv.accept {s : State} (h : s.Inv) (hp : s.pend = none) (v : Word) : (s.accept v).Inv :=
  ⟨h.legal, h.fits, h.errs, h.context, pendOk_of_idle hp⟩

/-- An idle block may set DONE. -/
theorem State.Inv.finish {s : State} (h : s.Inv) (hp : s.pend = none) : s.finish.Inv :=
  ⟨h.legal, h.fits, h.errs, h.context, pendOk_of_idle hp⟩

/-- An idle block may refuse a word. -/
theorem State.Inv.refuse {s : State} (h : s.Inv) (hp : s.pend = none) {e : ErrCode} (he : e ≠ .none) (v : Word) :
    (s.refuse e v).Inv := ((h.accept hp v).raise he).finish hp

/-- Dropping the command in flight. -/
theorem State.Inv.dropPend {s : State} (h : s.Inv) : ({ s with pend := none } : State).Inv :=
  ⟨h.legal, h.fits, h.errs, h.context, pendOk_of_idle rfl⟩

/-- ABORT leaves an idle block (60_exceptions.md R113). -/
theorem State.Inv.abort {s : State} (h : s.Inv) : s.abort.Inv := by
  unfold State.abort
  split
  · exact (h.dropPend.raise (by simp)).finish rfl
  · exact h

/-! ### Bus writes keep the invariant -/

/-- A written operand word keeps its register within W bits (20_memory.md R48). -/
theorem State.Inv.setWindowWord {s : State} (h : s.Inv) (x : Window) (i : Nat) (v : Word) :
    (s.setWindowWord x i v).Inv := by
  obtain ⟨ha, hd, hn, hres, hmrn, hmrr, hmry⟩ := h.fits
  rcases setWindowWord_cases x i v s with e | ⟨hi, -, e⟩ | ⟨hi, -, e⟩ | ⟨hi, -, e⟩ <;> rw [e]
  · exact h
  · exact ⟨h.legal, ⟨putWord_lt v ha hi, hd, hn, hres, hmrn, hmrr, hmry⟩, h.errs, h.context, h.flight⟩
  · exact ⟨h.legal, ⟨ha, putWord_lt v hd hi, hn, hres, hmrn, hmrr, hmry⟩, h.errs, h.context, h.flight⟩
  · exact ⟨h.legal, ⟨ha, hd, putWord_lt v hn hi, hres, hmrn, hmrr, hmry⟩, h.errs, h.context, h.flight⟩

theorem State.Inv.writeCtrl {s : State} (h : s.Inv) (v : Word) : (s.writeCtrl v).Inv := by
  have ht := h.setEnables (v.getLsbD 0) (v.getLsbD 1)
  unfold State.writeCtrl
  split
  · exact h.toReset
  · dsimp only
    split
    · exact ht.abort
    · exact ht

theorem State.Inv.writeStatus {s : State} (h : s.Inv) (v : Word) : (s.writeStatus v).Inv := by
  have ht : (if v.getLsbD 1 then s.clearDone else s).Inv := by
    split
    · exact h.clearDone
    · exact h
  unfold State.writeStatus
  dsimp only
  split
  · exact ht.clearErr
  · exact ht

/-- An illegal word raises an error that has a code (60_exceptions.md R103). -/
theorem errOfReject_ne_none (e : DecodeError) : errOfReject e ≠ .none := by cases e <;> decide

theorem State.Inv.writeIllegal {s : State} (h : s.Inv) (v : Word) : (s.writeIllegal v).Inv := by
  rcases writeIllegal_cases v s with ⟨c, -, e⟩ | ⟨r, hp, -, e⟩ | ⟨i, -, -, e⟩ <;> rw [e]
  · exact h.raise (by simp)
  · exact h.refuse hp (errOfReject_ne_none r) v
  · exact h

theorem State.Inv.writeCsr {s : State} (h : s.Inv) (r : Csr) (v : Word) : (s.writeCsr r v).Inv := by
  cases r with
  | ctrl => exact h.writeCtrl v
  | status => exact h.writeStatus v
  | cmd => exact h.writeIllegal v
  | id | param | mrStatus | mrS | mrRounds => exact h

theorem State.Inv.busWrite {s : State} (h : s.Inv) (off size : Nat) (st : BitVec 4) (v : Word) :
    (s.busWrite off size st v).Inv := by
  rcases busWrite_cases off size st v s with ⟨r, -, -, e⟩ | ⟨r, -, -, e⟩ | ⟨x, i, -, -, e⟩ <;> rw [e]
  · exact h.respond _
  · exact (h.writeCsr r v).respond _
  · exact (h.setWindowWord x i v).respond _

/-! ### The issue half of a command keeps the invariant -/

/-- Every command but NOP begins by going in flight (40_command_lifecycle.md R73). -/
theorem startOf_of_ne_nop {i : Instr} (h : i ≠ .nop) : startOf i = State.launch := by
  cases i with
  | nop => exact absurd rfl h
  | powmod | mrInit | mrRound | mrClear => rfl

/-- The checks of a command raise errors that have a code (60_exceptions.md R103). -/
theorem checkOf_ne_none_code {i : Instr} {c : Pending} {s : State} {e : ErrCode} (h : checkOf i c s = some e) :
    e ≠ .none := by
  rintro rfl
  cases i with
  | nop => simp [checkOf] at h
  | powmod => by_cases hn : c.n = 0 <;> simp [checkOf, checkPowmod, hn] at h
  | mrInit => simp [checkOf] at h
  | mrRound =>
    simp only [checkOf, checkMrRound] at h
    split_ifs at h <;> simp at h
  | mrClear => simp [checkOf] at h

/-- A command that passes its checks is in flight as the invariant asks (40_command_lifecycle.md R71 to R73). -/
theorem State.Inv.launch {s : State} (h : s.Inv) {i : Instr} (hi : i ≠ .nop)
    (hc : checkOf i (s.snapshot i) s = none) : ((s.accept (encode i)).launch (s.snapshot i)).Inv where
  legal := h.legal
  fits := h.fits
  errs := h.errs
  context := h.context
  flight := by
    obtain ⟨ha, hd, hn, -⟩ := h.fits
    intro c hcp
    obtain rfl : s.snapshot i = c := by simpa using hcp
    refine ⟨hi, ⟨ha, hd, hn⟩, rfl, rfl, ?_, ?_⟩
    · rintro rfl
      exact (checkPowmod_eq_none (s := s)).mp hc
    · rintro rfl
      exact checkMrRound_eq_none.mp hc

/-- A command that passes its checks begins in a state of the invariant; NOP is over at once (R77). -/
theorem State.Inv.start {s : State} (h : s.Inv) (hp : s.pend = none) {i : Instr}
    (hc : checkOf i (s.snapshot i) s = none) : (startOf i (s.snapshot i) (s.accept (encode i))).Inv := by
  by_cases hi : i = .nop
  · subst hi
    exact (h.accept hp _).finish hp
  · rw [startOf_of_ne_nop hi]
    exact h.launch hi hc

theorem State.Inv.issue {s t : State} (h : s.Inv) {i : Instr} (hs : s.issue i (checkOf i) (startOf i) = .next t) :
    t.Inv := by
  rcases issue_cases hs with ⟨c, -, rfl⟩ | ⟨e, hp, hc, rfl⟩ | ⟨hp, hc, rfl⟩
  · exact ((h.raise (by simp)).respond _).advance
  · exact ((h.refuse hp (checkOf_ne_none_code hc) _).respond _).advance
  · exact ((h.start hp hc).respond _).advance

/-! ### The engine half of a command keeps the invariant -/

/-- Completion leaves an idle block, so only the registers, the error record and the context of the effect count. -/
theorem inv_complete {u : State} (legal : u.build.legal = true) (fits : u.RegsFit)
    (errs : u.err = false ↔ u.errcode = .none) (context : u.ContextOk) : u.complete.Inv :=
  ⟨legal, fits, errs, context, pendOk_of_idle rfl⟩

/-- POWMOD writes RES, which takes a remainder of its modulus (41_powmod.md R80). -/
theorem State.Inv.complete_powmod {s u : State} (h : s.Inv) {c : Pending} (hn : c.n < 2 ^ s.build.w)
    (he : effectPowmod c s = .next u) : u.complete.Inv := by
  obtain ⟨ha, hd, hopn, -, hmrn, hmrr, hmry⟩ := h.fits
  unfold effectPowmod at he
  split at he
  · simp at he
  · next h0 =>
    obtain rfl := Host.Outcome.next.inj he
    have hres : powMod c.a c.d c.n < 2 ^ s.build.w := (powMod_lt _ _ (by omega)).trans hn
    exact inv_complete h.legal ⟨ha, hd, hopn, hres, hmrn, hmrr, hmry⟩ h.errs h.context

/-- MR_INIT loads a settled candidate, or an open one with its decomposition (42_miller_rabin.md R88, R90). -/
theorem State.Inv.complete_mrInit {s u : State} (h : s.Inv) {c : Pending} (hn : c.n < 2 ^ s.build.w)
    (he : effectMrInit c s = .next u) : u.complete.Inv := by
  obtain ⟨ha, hd, hopn, hres, -⟩ := h.fits
  have hpos : 0 < 2 ^ s.build.w := by positivity
  obtain rfl := Host.Outcome.next.inj he
  by_cases hset : c.n = 2 ∨ c.n = 3 ∨ c.n % 2 = 0 ∨ c.n < 2
  · rw [mrLoad_settled hset]
    exact inv_complete h.legal ⟨ha, hd, hopn, hres, hn, hpos, hpos⟩ h.errs (by simp [State.ContextOk])
  · have hodd : c.n % 2 = 1 := by omega
    have h5 : 5 ≤ c.n := by omega
    obtain ⟨r, k, hload, hr, hk, hdec⟩ := mrLoad_odd hodd h5
    obtain ⟨hrn, hkw⟩ := decomposition_bounds h5 hn hdec
    have hk32 : (BitVec.ofNat 32 k).toNat = k :=
      Nat.mod_eq_of_lt (hkw.trans (Build.w_lt_of_legal h.legal))
    rw [hload]
    refine inv_complete h.legal ⟨ha, hd, hopn, hres, hn, hrn.trans hn, hpos⟩ h.errs ⟨by simp, fun _ _ => ?_⟩
    exact ⟨rfl, hodd, h5, by rw [hk32]; exact hdec, hr, by rw [hk32]; exact hk⟩

/-- A round keeps the candidate and its decomposition; it leaves the verdict open only if it passes
(42_miller_rabin.md R94). -/
theorem State.Inv.complete_mrRound {s u : State} (h : s.Inv) {c : Pending} (hinit : s.mrInit = true)
    (hopen : s.mrDecided = false) (he : effectMrRound c s = .next u) : u.complete.Inv := by
  obtain ⟨ha, hd, hopn, hres, hmrn, hmrr, -⟩ := h.fits
  obtain ⟨hverdict, hodd, h5, hdec, hr, hk⟩ := h.context.2 hinit hopen
  unfold effectMrRound at he
  rw [if_neg (by omega)] at he
  obtain rfl := Host.Outcome.next.inj he
  have hy := mrRoundResult_lt c.a s.mrr s.mrS.toNat (n := s.mrn) (by omega)
  refine inv_complete h.legal ⟨ha, hd, hopn, hres, hmrn, hmrr, hy.trans hmrn⟩ h.errs
    ⟨by simp [hinit], fun _ hdecided => ?_⟩
  have hpass : (mrRoundResult c.a s.mrn s.mrr s.mrS.toNat).1 = true := by
    by_contra hfail
    simp [hfail] at hdecided
  exact ⟨by simp [hpass, hverdict], hodd, h5, hdec, hr, hk⟩

/-- MR_CLEAR empties the context (42_miller_rabin.md R97). -/
theorem State.Inv.complete_mrClear {s u : State} (h : s.Inv) {c : Pending} (he : effectMrClear c s = .next u) :
    u.complete.Inv := by
  obtain ⟨ha, hd, hopn, hres, -⟩ := h.fits
  have hpos : 0 < 2 ^ s.build.w := by positivity
  obtain rfl := Host.Outcome.next.inj he
  exact inv_complete h.legal ⟨ha, hd, hopn, hres, hpos, hpos, hpos⟩ h.errs (by simp [State.ContextOk])

/-- The completion of the command in flight, of whichever kind (40_command_lifecycle.md R75). -/
theorem State.Inv.complete {s u : State} (h : s.Inv) {c : Pending} (hp : s.pend = some c)
    (he : effectOf c.op c s = .next u) : u.complete.Inv := by
  obtain ⟨hnop, ⟨-, -, hn⟩, -, -, -, hround⟩ := h.flight c hp
  cases hop : c.op <;> rw [hop] at he
  case nop => exact absurd hop hnop
  case powmod => exact h.complete_powmod hn he
  case mrInit => exact h.complete_mrInit hn he
  case mrRound =>
    obtain ⟨hinit, hopen, -⟩ := hround hop
    exact h.complete_mrRound hinit hopen he
  case mrClear => exact h.complete_mrClear (c := c) he

/-- Settles O52, by what a step can do (`StepKind`): each kind is made of operations that keep the invariant. -/
theorem stepKeepsTheInvariant : Obligations.StepKeepsTheInvariant := by
  intro s t h hs
  cases stepKind hs with
  | complete c u hp _ he ht => exact ht ▸ (h.complete hp he).advance
  | issue _ _ _ _ _ _ _ _ _ _ hi => exact h.issue hi
  | idle _ _ ht => exact ht ▸ h
  | pass _ _ _ ht => exact ht ▸ h.advance
  | reset _ _ ht => exact ht ▸ h.hardReset.advance
  | read off size _ _ ht => exact ht ▸ (h.respond _).advance
  | write off size st v _ _ _ ht => exact ht ▸ (h.busWrite off size st v).advance

end Sys2Proof.Machine
end

section
/-! Proofs for the family 10_state.md: what a step does to BUSY (R20), the verdict (R27), the round counter (R34), the
build (R16, R17) and the error record (R22), and a write of STATUS (R19). -/

namespace Sys2Proof.Machine

/-! ### What a bus write can do, said once -/

/-- A write to a window changes operand registers at most (20_memory.md R48, R49). -/
theorem setWindowWord_operands (x : Window) (i : Nat) (v : Word) (s : State) :
    ∃ a d n, s.setWindowWord x i v = { s with opa := a, opd := d, opn := n } := by
  rcases setWindowWord_cases x i v s with e | ⟨-, -, e⟩ | ⟨-, -, e⟩ | ⟨-, -, e⟩ <;> exact ⟨_, _, _, e⟩

/-- Everything that a bus write which issues no command makes of `s`. -/
inductive WriteKind (off size : Nat) (st : BitVec 4) (v : Word) (s t : State) : Prop
  /-- An error response, or a write that is ignored. -/
  | answered (r : Resp) (result : t = s.respond (.write r))
  /-- CTRL with SRST. -/
  | softReset (resp : respOf off size (fullStrobes st) = .okay) (target : locate off = .csr .ctrl)
      (srst : v.getLsbD 3 = true) (result : t = s.toReset.respond (.write .okay))
  /-- CTRL with ABORT while a command is in flight. -/
  | abort (resp : respOf off size (fullStrobes st) = .okay) (target : locate off = .csr .ctrl)
      (srst : v.getLsbD 3 = false) (bit : v.getLsbD 2 = true)
      (result : t = ({ s with
        ieDone := v.getLsbD 0
        ieErr := v.getLsbD 1
        pend := none
        done := true
        err := true
        errcode := if s.err then s.errcode else .abort } : State).respond (.write .okay))
  /-- CTRL with neither effect. -/
  | enables (result : t = (s.setEnables (v.getLsbD 0) (v.getLsbD 1)).respond (.write .okay))
  /-- STATUS. -/
  | status (resp : respOf off size (fullStrobes st) = .okay) (target : locate off = .csr .status)
      (result : t = (s.writeStatus v).respond (.write .okay))
  /-- CMD while a command is in flight. -/
  | busy (result : t = (s.raise .busy).respond (.write .okay))
  /-- CMD with an illegal word. -/
  | illegal (e : DecodeError) (result : t = (s.refuse (errOfReject e) v).respond (.write .okay))
  /-- A window. -/
  | operands (a d n : Nat) (result : t = ({ s with opa := a, opd := d, opn := n } : State).respond (.write .okay))

/-- A bus write is of one of these kinds. -/
theorem writeKind (off size : Nat) (st : BitVec 4) (v : Word) (s : State) :
    WriteKind off size st v s (s.busWrite off size st v) := by
  rcases busWrite_cases off size st v s with ⟨r, -, -, e⟩ | ⟨r, hr, hl, e⟩ | ⟨x, i, -, -, e⟩
  · exact .answered r e
  · cases r with
    | id | param | mrStatus | mrS | mrRounds => exact .answered .okay e
    | ctrl =>
      rcases writeCtrl_cases v s with ⟨h3, h⟩ | ⟨h3, h2, -, h⟩ | ⟨-, -, h⟩ <;> rw [State.writeCsr, h] at e
      · exact .softReset hr hl h3 e
      · exact .abort hr hl h3 h2 e
      · exact .enables e
    | status => exact .status hr hl e
    | cmd =>
      rcases writeIllegal_cases v s with ⟨c, -, h⟩ | ⟨d, -, -, h⟩ | ⟨i, -, -, h⟩ <;> rw [State.writeCsr, h] at e
      · exact .busy e
      · exact .illegal d e
      · exact .answered .okay e
  · obtain ⟨a, d, n, h⟩ := setWindowWord_operands x i v s
    rw [h] at e
    exact .operands a d n e

/-! ### Which events reset the block or end an error -/

/-- The next event resets the block (70_reset_and_hazards.md R119, R121). -/
abbrev State.Resets (s : State) : Prop := ∃ e ∈ s.agenda.head?, e.isReset = true

/-- Only the head of the agenda can reset the block now. -/
theorem resets_cons_iff {s : State} {e : Event} {rest : List Event} (ha : s.agenda = e :: rest) :
    s.Resets ↔ e.isReset = true := by simp [State.Resets, ha]

/-- A write resets when it is an admitted write of CTRL with SRST (70_reset_and_hazards.md R121). -/
theorem isReset_write_iff {off size : Nat} {st : BitVec 4} {v : Word} :
    (Event.write off size st v).isReset = true ↔
      respOf off size (fullStrobes st) = .okay ∧ locate off = .csr .ctrl ∧ v.getLsbD 3 = true := by
  simp [Event.isReset, and_assoc]

/-- A write that resets is a soft reset answered OKAY (70_reset_and_hazards.md R121). -/
theorem busWrite_of_isReset {off size : Nat} {st : BitVec 4} {v : Word} (s : State)
    (h : (Event.write off size st v).isReset = true) :
    s.busWrite off size st v = s.toReset.respond (.write .okay) := by
  obtain ⟨hresp, hl, h3⟩ := isReset_write_iff.mp h
  simp only [State.busWrite, hresp, hl, State.writeTarget, State.writeCsr, State.writeCtrl, h3, if_true]

/-- A write may end an error by SRST, or by bit 2 of STATUS (10_state.md R22). -/
theorem mayClearErr_write_iff {off size : Nat} {st : BitVec 4} {v : Word} :
    (Event.write off size st v).mayClearErr = true ↔
      respOf off size (fullStrobes st) = .okay ∧
        (locate off = .csr .ctrl ∧ v.getLsbD 3 = true ∨ locate off = .csr .status ∧ v.getLsbD 2 = true) := by
  simp [Event.mayClearErr]

/-- A step completes no command but the one in flight. -/
theorem completes_iff_of_pend {s : State} {c : Pending} {i j : Instr} (hp : s.pend = some c) (h : s.Completes i) :
    s.Completes j ↔ c.op = j := by
  obtain ⟨turn, -⟩ := completes_iff.mp h
  simp [completes_iff, turn, hp]

/-- Completion and reset are different steps. -/
theorem not_resets_of_completes {s : State} {i : Instr} (h : s.Completes i) : ¬ s.Resets := by
  obtain ⟨turn | ⟨rest, turn⟩, -⟩ := completes_iff.mp h
  · simp [State.Resets, turn]
  · simp [resets_cons_iff turn, Event.isReset]

/-- Nothing completes on an idle block. -/
theorem not_completes_of_idle {s : State} (i : Instr) (hp : s.pend = none) : ¬ s.Completes i := by
  simp [completes_iff, hp]

/-- Nothing completes while a transaction or a reset comes next. -/
theorem not_completes_of_head {s : State} {e : Event} {rest : List Event} (i : Instr) (ha : s.agenda = e :: rest)
    (he : e ≠ .engine) : ¬ s.Completes i := by
  simp [completes_iff, ha, he]

/-! ### The build, RES and the context over a step -/

/-- A write that resets nothing leaves the build, RES and the context alone (40_command_lifecycle.md R79). -/
theorem WriteKind.keeps_results {off size : Nat} {st : BitVec 4} {v : Word} {s t : State}
    (h : WriteKind off size st v s t) (hr : (Event.write off size st v).isReset = false) :
    t.build = s.build ∧ s.SameResults t := by
  rcases h with ⟨r, rfl⟩ | ⟨hresp, hl, h3, -⟩ | ⟨-, -, -, -, rfl⟩ | rfl | ⟨-, -, rfl⟩ | rfl | ⟨e, rfl⟩ | ⟨a, d, n, rfl⟩
  case softReset => simp [isReset_write_iff.mpr ⟨hresp, hl, h3⟩] at hr
  case status => rw [writeStatus_eq]; simp [State.SameResults]
  all_goals simp [State.SameResults]

/-- How a command begins touches PEND and DONE alone (40_command_lifecycle.md R73). -/
theorem startOf_frame (i : Instr) (c : Pending) (s : State) :
    ∃ p d, startOf i c s = { s with pend := p, done := d } := by
  cases i with
  | nop | powmod | mrInit | mrRound | mrClear => exact ⟨_, _, rfl⟩

/-- A CMD write leaves the build, RES and the context alone (40_command_lifecycle.md R78). -/
theorem issue_keeps_results {s t : State} {i : Instr} (h : s.issue i (checkOf i) (startOf i) = .next t) :
    t.build = s.build ∧ s.SameResults t := by
  rcases issue_cases h with ⟨c, -, rfl⟩ | ⟨e, -, -, rfl⟩ | ⟨-, -, rfl⟩
  · simp [State.SameResults]
  · simp [State.SameResults]
  · obtain ⟨p, d, hf⟩ := startOf_frame i (s.snapshot i) (s.accept (encode i))
    simp [State.SameResults, hf]

/-- What a step makes of the build, RES and the context: the effect of the command it completes, the reset state, or
nothing (40_command_lifecycle.md R79). -/
inductive ResultKind (s t : State) : Prop
  /-- The engine completes the command in flight. -/
  | complete (c : Pending) (u : State) (pend : s.pend = some c) (completes : s.Completes c.op)
      (effect : effectOf c.op c s = .next u) (result : t = u.complete.advance)
  /-- Reset or soft reset. -/
  | reset (resets : s.Resets) (a : Option Answer)
      (result : t = ({ s.toReset with answer := a } : State).advance)
  /-- Every other step. -/
  | kept (completes : ∀ i, ¬ s.Completes i) (resets : ¬ s.Resets) (build : t.build = s.build)
      (results : s.SameResults t)

/-- A step is of one of these kinds. -/
theorem resultKind {s t : State} (h : step s = .next t) : ResultKind s t := by
  cases stepKind h with
  | complete c u hp turn he ht => exact .complete c u hp (completes_iff.mpr ⟨turn, c, hp, rfl⟩) he ht
  | issue off size st v rest i ha _ hl _ hi =>
    obtain ⟨hb, hr⟩ := issue_keeps_results hi
    exact .kept (fun j => not_completes_of_head j ha (by simp))
      (by simp [resets_cons_iff ha, isReset_write_iff, hl]) hb hr
  | idle ha hp ht =>
    exact .kept (fun j => not_completes_of_idle j hp) (by simp [State.Resets, ha]) (by rw [ht])
      (by simp [ht, State.SameResults])
  | pass rest ha hp ht =>
    exact .kept (fun j => not_completes_of_idle j hp) (by simp [resets_cons_iff ha, Event.isReset])
      (by simp [ht]) (by simp [ht, State.SameResults])
  | reset rest ha ht => exact .reset ((resets_cons_iff ha).mpr rfl) none ht
  | read off size rest ha ht =>
    exact .kept (fun j => not_completes_of_head j ha (by simp)) (by simp [resets_cons_iff ha, Event.isReset])
      (by simp [ht]) (by simp [ht, State.SameResults])
  | write off size st v rest ha _ ht =>
    by_cases hreset : (Event.write off size st v).isReset = true
    · rw [busWrite_of_isReset s hreset] at ht
      exact .reset ((resets_cons_iff ha).mpr hreset) _ ht
    · obtain ⟨hb, hr⟩ := (writeKind off size st v s).keeps_results (by simpa using hreset)
      subst ht
      exact .kept (fun j => not_completes_of_head j ha (by simp)) (mt (resets_cons_iff ha).mp hreset) hb hr

/-- Settles O32: an effect, a reset and every other step keep the build. -/
theorem buildNeverChanges : Obligations.BuildNeverChanges := by
  intro s t h
  have hb : t.build = s.build := by
    cases resultKind h with
    | complete c u _ _ he ht => rw [ht, effectOf_frame he]; rfl
    | reset _ _ ht => rw [ht]; rfl
    | kept _ _ hb _ => exact hb
  exact ⟨hb, rfl, by simp [State.csrWord, State.paramWord, hb]⟩

/-! ### The Miller-Rabin context over a completion -/

/-- NOP and POWMOD have no effect on the context (41_powmod.md R86). -/
theorem effectOf_keeps_context {i : Instr} {c : Pending} {s u : State} (hi : i = .nop ∨ i = .powmod)
    (h : effectOf i c s = .next u) : u = { s with res := u.res } := by
  rcases hi with rfl | rfl
  · obtain rfl := Host.Outcome.next.inj h
    rfl
  · by_cases hn : c.n = 0
    · simp [effectOf, effectPowmod, hn] at h
    · simp only [effectOf, effectPowmod, if_neg hn, Host.Outcome.next.injEq] at h
      subst h
      rfl

/-- What the completion of a command makes of MR_ROUNDS (10_state.md R34). -/
def roundsAfter : Instr → Word → Word
  | .nop, k => k
  | .powmod, k => k
  | .mrInit, _ => 0#32
  | .mrRound, k => satSucc k
  | .mrClear, _ => 0#32

/-- The effect of a command counts as `roundsAfter` says (42_miller_rabin.md R95). -/
theorem effectOf_mrRounds {i : Instr} {c : Pending} {s u : State} (h : effectOf i c s = .next u) :
    u.mrRounds = roundsAfter i s.mrRounds := by
  cases i with
  | nop => rw [effectOf_keeps_context (.inl rfl) h]; rfl
  | powmod => rw [effectOf_keeps_context (.inr rfl) h]; rfl
  | mrInit => obtain rfl := Host.Outcome.next.inj h; rfl
  | mrRound =>
    by_cases hn : s.mrn = 0
    · simp [effectOf, effectMrRound, hn] at h
    · simp only [effectOf, effectMrRound, if_neg hn, Host.Outcome.next.injEq] at h
      subst h
      rfl
  | mrClear => obtain rfl := Host.Outcome.next.inj h; rfl

/-- The counter stays at its top (10_state.md R34). -/
theorem satSucc_top : satSucc 0xFFFFFFFF#32 = 0xFFFFFFFF#32 := rfl

/-- Counting a round does not lower the count (10_state.md R34). -/
theorem le_satSucc (k : Word) : k.toNat ≤ (satSucc k).toNat := by
  have := k.isLt
  rw [satSucc_toNat]
  omega

/-- Settles O28, by what the command in flight makes of the counter when it completes (`roundsAfter`). -/
theorem roundCounterNeverWraps : Obligations.RoundCounterNeverWraps := by
  intro s t h
  cases resultKind h with
  | complete c u hp hc he ht =>
    have hr : t.mrRounds = roundsAfter c.op s.mrRounds := by
      rw [ht, State.advance_mrRounds, State.complete_mrRounds, effectOf_mrRounds he]
    have hnr : ¬ s.Resets := not_resets_of_completes hc
    simp only [completes_iff_of_pend hp hc, hr, hnr]
    cases c.op with
    | nop | powmod | mrInit | mrClear => simp [roundsAfter]
    | mrRound =>
      refine ⟨by simp, fun _ => satSucc_toNat _, fun _ _ _ => ⟨by simp, le_satSucc _, fun htop => ?_⟩⟩
      rw [htop]
      exact satSucc_top
  | reset hr a ht =>
    have hnc : ∀ i, ¬ s.Completes i := fun i hi => not_resets_of_completes hi hr
    exact ⟨fun _ => by rw [ht]; rfl, fun hround => absurd hround (hnc _), fun hnr => absurd hr hnr⟩
  | kept hnc hnr _ hs =>
    obtain ⟨-, -, -, -, -, hr, -⟩ := hs
    refine ⟨?_, fun hround => absurd hround (hnc _), fun _ _ _ => ⟨fun _ => hr, by rw [hr], fun htop => hr.trans htop⟩⟩
    rintro (hreset | hinit | hclear)
    · exact absurd hreset hnr
    · exact absurd hinit (hnc _)
    · exact absurd hclear (hnc _)

/-- Settles O27: of the commands that may complete, MR_ROUND is not in flight once the verdict is decided (the
invariant's `PendOk`), and NOP and POWMOD do not write the context. -/
theorem decidedVerdictStays : Obligations.DecidedVerdictStays := by
  intro s t hinv h hdec hnr hpend
  cases resultKind h with
  | complete c u hp _ he ht =>
    obtain ⟨hinit, hclear⟩ := hpend c hp
    obtain ⟨-, -, -, -, -, hround⟩ := hinv.flight c hp
    have hop : c.op = .nop ∨ c.op = .powmod := by
      cases hop : c.op with
      | nop => exact .inl rfl
      | powmod => exact .inr rfl
      | mrInit => exact absurd hop hinit
      | mrRound => simp [hround hop] at hdec
      | mrClear => exact absurd hop hclear
    rw [ht, effectOf_keeps_context hop he]
    exact ⟨hdec, rfl⟩
  | reset hr =>
    obtain ⟨e, he, hreset⟩ := hr
    simp [hnr e he] at hreset
  | kept _ _ _ hs =>
    obtain ⟨-, -, -, -, -, -, -, hd, hv⟩ := hs
    exact ⟨hd.trans hdec, hv⟩

/-! ### The error record over a step -/

/-- A write that clears no error keeps the first one and its code (10_state.md R22). -/
theorem WriteKind.keeps_error {off size : Nat} {st : BitVec 4} {v : Word} {s t : State}
    (h : WriteKind off size st v s t) (herr : s.err = true)
    (hclear : (Event.write off size st v).mayClearErr = false) : t.err = true ∧ t.errcode = s.errcode := by
  rcases h with ⟨r, rfl⟩ | ⟨hresp, hl, h3, -⟩ | ⟨-, -, -, -, rfl⟩ | rfl | ⟨hresp, hl, rfl⟩ | rfl | ⟨e, rfl⟩ |
    ⟨a, d, n, rfl⟩
  case softReset => simp [mayClearErr_write_iff.mpr ⟨hresp, .inl ⟨hl, h3⟩⟩] at hclear
  case status =>
    have h2 : v.getLsbD 2 = false := by
      by_contra h2
      simp [mayClearErr_write_iff.mpr ⟨hresp, .inr ⟨hl, by simpa using h2⟩⟩] at hclear
    rw [writeStatus_eq, h2]
    exact ⟨herr, rfl⟩
  all_goals simp [herr]

/-- A CMD write keeps the first error and its code (60_exceptions.md R106). -/
theorem issue_keeps_error {s t : State} {i : Instr} (h : s.issue i (checkOf i) (startOf i) = .next t)
    (herr : s.err = true) : t.err = true ∧ t.errcode = s.errcode := by
  rcases issue_cases h with ⟨c, -, rfl⟩ | ⟨e, -, -, rfl⟩ | ⟨-, -, rfl⟩
  · simp [herr]
  · simp [herr]
  · obtain ⟨p, d, hf⟩ := startOf_frame i (s.snapshot i) (s.accept (encode i))
    simp [hf, herr]

/-- Settles O33: the steps that reset or clear are excluded, and no other step touches a recorded error. -/
theorem firstErrorCodeIsKept : Obligations.FirstErrorCodeIsKept := by
  intro s t h herr hclear
  cases stepKind h with
  | complete c u _ _ he ht => rw [ht, effectOf_frame he]; exact ⟨herr, rfl⟩
  | issue _ _ _ _ _ _ _ _ _ _ hi => exact issue_keeps_error hi herr
  | idle _ _ ht => rw [ht]; exact ⟨herr, rfl⟩
  | pass _ _ _ ht => rw [ht]; exact ⟨herr, rfl⟩
  | reset _ ha _ => simp [ha, Event.mayClearErr] at hclear
  | read _ _ _ _ ht => rw [ht]; exact ⟨herr, rfl⟩
  | write off size st v _ ha _ ht =>
    rw [ht]
    exact (writeKind off size st v s).keeps_error herr (hclear _ (by simp [ha]))

/-! ### BUSY over a step -/

/-- BUSY is PEND (10_state.md R20). -/
theorem busy_eq_true_iff {s : State} : s.busy = true ↔ s.pend ≠ none := by
  simp [State.busy, Option.isSome_iff_ne_none]

/-- An idle block has nothing in flight (10_state.md R20). -/
theorem busy_eq_false_iff {s : State} : s.busy = false ↔ s.pend = none := by
  simp [State.busy]

/-- A CMD write leaves PEND alone, or launches a command that passes every check (40_command_lifecycle.md R73). -/
theorem issue_pend_cases {s t : State} {i : Instr} (h : s.issue i (checkOf i) (startOf i) = .next t) :
    t.pend = s.pend ∨ (i ≠ .nop ∧ checkOf i (s.snapshot i) s = none ∧ t.pend = some (s.snapshot i)) := by
  rcases issue_cases h with ⟨c, -, rfl⟩ | ⟨e, -, -, rfl⟩ | ⟨-, hc, rfl⟩
  · exact .inl rfl
  · exact .inl rfl
  · by_cases hi : i = .nop
    · subst hi
      exact .inl rfl
    · rw [startOf_of_ne_nop hi]
      exact .inr ⟨hi, hc, rfl⟩

/-- A write that issues no command leaves PEND alone, or empties it by SRST or ABORT (10_state.md R20). -/
theorem WriteKind.pend_cases {off size : Nat} {st : BitVec 4} {v : Word} {s t : State}
    (h : WriteKind off size st v s t) :
    t.pend = s.pend ∨ (t.pend = none ∧ (Event.write off size st v).isReset = true) ∨
      (t.pend = none ∧ respOf off size (fullStrobes st) = .okay ∧ locate off = .csr .ctrl ∧ v.getLsbD 2 = true ∧
        v.getLsbD 3 = false ∧ t.errcode = if s.err then s.errcode else .abort) := by
  rcases h with ⟨r, rfl⟩ | ⟨hresp, hl, h3, rfl⟩ | ⟨hresp, hl, h3, h2, rfl⟩ | rfl | ⟨-, -, rfl⟩ | rfl | ⟨e, rfl⟩ |
    ⟨a, d, n, rfl⟩
  case softReset => exact .inr (.inl ⟨rfl, isReset_write_iff.mpr ⟨hresp, hl, h3⟩⟩)
  case abort => exact .inr (.inr ⟨rfl, hresp, hl, h2, h3, rfl⟩)
  case status => rw [writeStatus_eq]; exact .inl rfl
  all_goals exact .inl rfl

/-- What a step makes of PEND (10_state.md R20, R36). -/
inductive PendKind (s t : State) : Prop
  /-- PEND stays. -/
  | kept (result : t.pend = s.pend)
  /-- An admitted CMD write of a command that passes its checks. -/
  | launched (off size : Nat) (st : BitVec 4) (v : Word) (rest : List Event) (i : Instr)
      (head : s.agenda = .write off size st v :: rest) (resp : respOf off size (fullStrobes st) = .okay)
      (target : locate off = .csr .cmd) (word : decodeWord v = .instr i) (ne_nop : i ≠ .nop)
      (check : checkOf i (s.snapshot i) s = none) (result : t.pend = some (s.snapshot i))
  /-- The engine completes the command in flight. -/
  | completed (i : Instr) (completes : s.Completes i) (result : t.pend = none)
  /-- Reset or soft reset. -/
  | reset (resets : s.Resets) (result : t.pend = none)
  /-- An admitted write of CTRL with ABORT and without SRST. -/
  | aborted (off size : Nat) (st : BitVec 4) (v : Word) (rest : List Event)
      (head : s.agenda = .write off size st v :: rest) (resp : respOf off size (fullStrobes st) = .okay)
      (target : locate off = .csr .ctrl) (bit : v.getLsbD 2 = true) (srst : v.getLsbD 3 = false)
      (code : t.errcode = if s.err then s.errcode else .abort) (result : t.pend = none)

/-- A step is of one of these kinds. -/
theorem pendKind {s t : State} (h : step s = .next t) : PendKind s t := by
  cases stepKind h with
  | complete c u hp turn _ ht => exact .completed c.op (completes_iff.mpr ⟨turn, c, hp, rfl⟩) (by simp [ht])
  | issue off size st v rest i ha hresp hl hd hi =>
    rcases issue_pend_cases hi with hp | ⟨hn, hc, hp⟩
    · exact .kept hp
    · exact .launched off size st v rest i ha hresp hl hd hn hc hp
  | idle _ _ ht => exact .kept (by rw [ht])
  | pass _ _ _ ht => exact .kept (by simp [ht])
  | reset _ ha ht => exact .reset ((resets_cons_iff ha).mpr rfl) (by simp [ht])
  | read _ _ _ _ ht => exact .kept (by simp [ht])
  | write off size st v rest ha _ ht =>
    subst ht
    rcases (writeKind off size st v s).pend_cases with hp | ⟨hp, hr⟩ | ⟨hp, hresp, hl, h2, h3, hcode⟩
    · exact .kept hp
    · exact .reset ((resets_cons_iff ha).mpr hr) hp
    · exact .aborted off size st v rest ha hresp hl h2 h3 hcode hp

/-- Settles O13, by what a step makes of PEND (`PendKind`). -/
theorem busyFollowsTheLifecycle : Obligations.BusyFollowsTheLifecycle := by
  refine ⟨fun s => busy_eq_true_iff, fun s t h hidle hbusy => ?_, fun s t h hbusy hidle => ?_⟩
  · rw [busy_eq_false_iff] at hidle
    rw [busy_eq_true_iff] at hbusy
    cases pendKind h with
    | kept hp => exact absurd (hp.trans hidle) hbusy
    | launched off size st v rest i ha hresp hl hd hn hc hp =>
      refine ⟨v, i, off, size, st, rest, ha, hresp, hl, hd, hn, hp, ?_, ?_⟩
      · rintro rfl
        exact (checkPowmod_eq_none (s := s)).mp hc
      · rintro rfl
        exact checkMrRound_eq_none.mp hc
    | completed _ _ hp => exact absurd hp hbusy
    | reset _ hp => exact absurd hp hbusy
    | aborted _ _ _ _ _ _ _ _ _ _ _ hp => exact absurd hp hbusy
  · rw [busy_eq_true_iff] at hbusy
    rw [busy_eq_false_iff] at hidle
    cases pendKind h with
    | kept hp => exact absurd (hp.symm.trans hidle) hbusy
    | launched _ _ _ _ _ _ _ _ _ _ _ _ hp => simp [hp] at hidle
    | completed i hc => exact .inl ⟨i, hc⟩
    | reset hr =>
      obtain ⟨e, he, hreset⟩ := hr
      exact .inr ⟨e, he, .inl hreset⟩
    | aborted off size st v rest ha hresp hl h2 h3 hcode =>
      exact .inr ⟨_, by simp [ha], .inr ⟨off, size, st, v, rfl, hresp, hl, h2, h3, hcode⟩⟩

/-! ### A write of STATUS -/

/-- A write of a 32-bit register other than CMD is performed (20_memory.md R48). -/
theorem step_write_csr {s : State} {r : Csr} {off : Nat} {v : Word} {rest : List Event}
    (ha : s.agenda = Script.wr off v :: rest) (hl : locate off = .csr r) (h4 : off % 4 = 0) (hr : r ≠ .cmd) :
    step s = .next ((s.writeCsr r v).respond (.write .okay)).advance := by
  have hresp : respOf off 4 (fullStrobes 0xF#4) = .okay := by
    simp only [respOf, hl, h4]
    rfl
  rw [step_write ha (.inr (.inl (by simp [hl, hr]))), State.busWrite, hresp]
  simp only [hl, State.writeTarget]

/-- Settles O44: the write is admitted (`step_write_csr`) and `writeStatus_eq` says what it does. -/
theorem statusWriteClears : Obligations.StatusWriteClears := by
  intro s v rest ha
  rw [step_write_csr (r := .status) ha rfl rfl (by decide), State.writeCsr, writeStatus_eq]
  cases v.getLsbD 1 <;> cases v.getLsbD 2 <;> simp [State.respond, State.advance, ha]

end Sys2Proof.Machine
end

section
/-! Proofs for the family 20_memory.md: the words of a register and of a window (R42, R44, R45), bus reads and the
register map (R44, R47), error responses (R40, R46), writes of operand words and ignored writes (R48, R49), the step
of a command (R55), and the ways of a W-bit integer into and out of the block (R57). -/

namespace Sys2Proof.Machine

/-! ### The words of a register (20_memory.md R42) -/

/-- Word `i` of a register as a number. -/
theorem wordAt_toNat (x i : Nat) : (wordAt x i).toNat = x / 2 ^ (32 * i) % 2 ^ 32 := BitVec.toNat_ofNat _ _

/-- The words below `n` make up the low `32 n` bits of a value. -/
theorem sum_wordAt (x n : Nat) :
    ∑ i ∈ Finset.range n, (wordAt x i).toNat * 2 ^ (32 * i) = x % 2 ^ (32 * n) := by
  induction n with
  | zero => simp [Nat.mod_one]
  | succ n ih =>
    have hmod := Nat.mod_pow_succ (x := x) (b := 2 ^ 32) (k := n)
    simp only [← pow_mul] at hmod
    rw [Finset.sum_range_succ, ih, wordAt_toNat, hmod, Nat.mul_comm (_ % 2 ^ 32)]

/-- Settles O37: all words together make up the value modulo `2^W`, which is the value. -/
theorem wordsRebuildTheRegister : Obligations.WordsRebuildTheRegister := fun x nw hx =>
  (sum_wordAt x nw).trans (Nat.mod_eq_of_lt hx)

/-! ### The windows (20_memory.md R44, R45) -/

/-- A read of a window word as a number. -/
theorem windowWord_toNat (s : State) (x : Window) (i : Nat) :
    (s.windowWord x i).toNat = if i < s.build.nw then s.windowValue x / 2 ^ (32 * i) % 2 ^ 32 else 0 := by
  unfold State.windowWord
  split
  · exact wordAt_toNat _ _
  · rfl

/-- The word at a window's offset is the window's word. -/
theorem targetWord_windowBase (s : State) (x : Window) {i : Nat} (hi : i < 256) :
    s.targetWord (locate (Script.windowBase x + 4 * i)) = s.windowWord x i := by
  rw [locate_windowBase x hi]
  rfl

/-- Settles O36: the seven rows of the map name each window's base and register, and `targetWord_windowBase` reads
them. -/
theorem windowWordsAreTheRegister : Obligations.WindowWordsAreTheRegister := by
  intro s x base value h
  have hrow : Script.windowBase x = base ∧ s.windowValue x = value := by
    simp only [List.mem_cons, Prod.mk.injEq, List.not_mem_nil, or_false] at h
    rcases h with ⟨rfl, rfl, rfl⟩ | ⟨rfl, rfl, rfl⟩ | ⟨rfl, rfl, rfl⟩ | ⟨rfl, rfl, rfl⟩ | ⟨rfl, rfl, rfl⟩ |
      ⟨rfl, rfl, rfl⟩ | ⟨rfl, rfl, rfl⟩ <;> exact ⟨rfl, rfl⟩
  obtain ⟨rfl, rfl⟩ := hrow
  refine ⟨rfl, rfl, fun i hi => ?_⟩
  rw [targetWord_windowBase s x hi]
  exact ⟨rfl, windowWord_toNat s x i⟩

/-- A window word that an offset selects lies at the window's base, four bytes for each word below it. -/
theorem eq_windowBase_of_locate {off i : Nat} {x : Window} (h : locate off = .window x i) :
    off = Script.windowBase x + 4 * i + off % 4 := by
  obtain ⟨-, -, hx, hi⟩ := window_of_locate h
  have hk := windowAt_index hx
  cases x <;> simp only [Script.windowBase] at hk ⊢ <;> omega

/-- Nothing outside offsets 0x400 to 0x1FFF selects a window word. -/
theorem locate_ne_window {off : Nat} (h : off < 0x400 ∨ 0x2000 ≤ off) (x : Window) (i : Nat) :
    locate off ≠ .window x i := by
  intro hl
  obtain ⟨hlo, hhi, -⟩ := window_of_locate hl
  omega

/-- A window shows the same words in states of one build whose registers behind it agree. -/
theorem windowWord_congr {s t : State} {x : Window} (hb : t.build = s.build) (hv : t.windowValue x = s.windowValue x)
    (i : Nat) : t.windowWord x i = s.windowWord x i := by
  simp [State.windowWord, hb, hv]

@[simp] theorem windowValue_respond (a : Answer) (s : State) (x : Window) :
    (s.respond a).windowValue x = s.windowValue x := by cases x <;> rfl

@[simp] theorem windowValue_advance (s : State) (x : Window) : s.advance.windowValue x = s.windowValue x := by
  cases x <;> rfl

@[simp] theorem windowWord_respond (a : Answer) (s : State) (x : Window) (i : Nat) :
    (s.respond a).windowWord x i = s.windowWord x i := windowWord_congr rfl (windowValue_respond a s x) i

@[simp] theorem windowWord_advance (s : State) (x : Window) (i : Nat) : s.advance.windowWord x i = s.windowWord x i :=
  windowWord_congr rfl (windowValue_advance s x) i

/-! ### What a bus read returns, and error responses (20_memory.md R40, R46, R47) -/

/-- Only an aligned full-strobe access of four bytes is admitted (R46). -/
theorem access_of_respOf_okay {off size : Nat} {full : Bool} (h : respOf off size full = .okay) :
    size = 4 ∧ off % 4 = 0 ∧ full = true := by
  rw [respOf_cases] at h
  split_ifs at h with _ hacc
  exact hacc

/-- An access to the reserved range or outside the aperture gets DECERR (R44, log 7). -/
theorem respOf_decerr {off : Nat} (h : 0x020 ≤ off ∧ off < 0x400 ∨ 0x2000 ≤ off) (size : Nat) (full : Bool) :
    respOf off size full = .decerr := by
  rw [respOf_cases, if_pos h]

/-- Any other access that is not admitted gets SLVERR (R46). -/
theorem respOf_slverr {off size : Nat} {full : Bool} (hr : off < 0x020 ∨ 0x400 ≤ off ∧ off < 0x2000)
    (h : size ≠ 4 ∨ off % 4 ≠ 0 ∨ full = false) : respOf off size full = .slverr := by
  rw [respOf_cases, if_neg (by omega), if_neg (by rintro ⟨h4, ha, hf⟩; simp [h4, ha, hf] at h)]

/-- A write has all its strobes exactly when the strobe lines are all 1 (R46). -/
theorem fullStrobes_eq_false_iff {st : BitVec 4} : fullStrobes st = false ↔ st ≠ 0xF#4 := by
  simp [fullStrobes]

/-- Answering a transaction sets the port's answer and takes the event off the agenda; no register changes. -/
theorem advance_respond {s : State} {e : Event} {rest : List Event} (ha : s.agenda = e :: rest) (x : Answer) :
    (s.respond x).advance = { s with answer := some x, agenda := rest } := by
  simp [State.respond, State.advance, ha]

/-- An admitted read is answered with the word of its target (R47). -/
theorem busRead_okay {off size : Nat} (h : respOf off size true = .okay) (s : State) :
    s.busRead off size = .read (s.targetWord (locate off)) .okay := by
  simp [State.busRead, h]

/-- A read that is not admitted is answered with 0 (R40). -/
theorem busRead_error {off size : Nat} {r : Resp} (h : respOf off size true = r) (hr : r ≠ .okay) (s : State) :
    s.busRead off size = .read 0#32 r := by
  cases r with
  | okay => exact absurd rfl hr
  | slverr | decerr => simp [State.busRead, h]

/-- The step of a read that is not admitted (60_exceptions.md R104). -/
theorem step_read_error {s : State} {off size : Nat} {rest : List Event} {r : Resp}
    (ha : s.agenda = .read off size :: rest) (h : respOf off size true = r) (hr : r ≠ .okay) :
    step s = .next { s with answer := some (.read 0#32 r), agenda := rest } := by
  rw [step_read ha, busRead_error h hr, advance_respond ha]

/-- The step of a write that is not admitted (60_exceptions.md R104). -/
theorem step_write_error {s : State} {off size : Nat} {st : BitVec 4} {v : Word} {rest : List Event} {r : Resp}
    (ha : s.agenda = .write off size st v :: rest) (h : respOf off size (fullStrobes st) = r) (hr : r ≠ .okay) :
    step s = .next { s with answer := some (.write r), agenda := rest } := by
  have hbus : s.busWrite off size st v = s.respond (.write r) := by
    cases r with
    | okay => exact absurd rfl hr
    | slverr | decerr => simp [State.busWrite, h]
  rw [step_write ha (.inl (h ▸ hr)), hbus, advance_respond ha]

/-- Settles O38: the offset decides DECERR (`respOf_decerr`), and elsewhere the access SLVERR (`respOf_slverr`). -/
theorem busErrorsChangeNothing : Obligations.BusErrorsChangeNothing := by
  intro s off size st v rest
  refine ⟨fun h => ⟨fun ha => ?_, fun ha => ?_⟩, fun h => ⟨fun hbad ha => ?_, fun hbad ha => ?_⟩⟩
  · exact step_read_error ha (respOf_decerr h _ _) (by decide)
  · exact step_write_error ha (respOf_decerr h _ _) (by decide)
  · exact step_read_error ha (respOf_slverr h (hbad.imp_right .inl)) (by decide)
  · rw [← fullStrobes_eq_false_iff] at hbad
    exact step_write_error ha (respOf_slverr h hbad) (by decide)

/-- Settles O39: the missing strobe makes the response SLVERR. -/
theorem partialStrobesAreRefused : Obligations.PartialStrobesAreRefused := by
  intro s off st v rest ha _ hr hst
  exact step_write_error ha (respOf_slverr hr (.inr (.inr (fullStrobes_eq_false_iff.mpr hst)))) (by decide)

/-- Settles O34: an aligned word read of a register or a window is admitted (`respOf_word`). -/
theorem readsHaveNoSideEffect : Obligations.ReadsHaveNoSideEffect := by
  intro s off rest ha h4 hr
  rw [step_read ha, busRead_okay (respOf_word (by omega) (by omega) h4), advance_respond ha]

/-! ### The registers below 0x020 (20_memory.md R44) -/

/-- Concatenation as a number: the low part, and the high part above it. -/
theorem toNat_append_eq {m n : Nat} (x : BitVec m) (y : BitVec n) : (x ++ y).toNat = x.toNat * 2 ^ n + y.toNat := by
  rw [BitVec.toNat_append, ← Nat.shiftLeft_add_eq_or_of_lt y.isLt, Nat.shiftLeft_eq]

/-- CTRL as a number (10_state.md R18). -/
theorem ctrlWord_toNat (s : State) : s.ctrlWord.toNat = s.ieDone.toNat + 2 * s.ieErr.toNat := by
  simp only [State.ctrlWord, toNat_append_eq, BitVec.toNat_ofBool, BitVec.toNat_ofNat]
  omega

/-- STATUS as a number (10_state.md R19). -/
theorem statusWord_toNat (s : State) :
    s.statusWord.toNat = s.busy.toNat + 2 * s.done.toNat + 4 * s.err.toNat + 8 * s.irq.toNat +
      256 * s.errcode.toBits.toNat := by
  simp only [State.statusWord, toNat_append_eq, BitVec.toNat_ofBool, BitVec.toNat_ofNat]
  omega

/-- MR_STATUS as a number (10_state.md R25). -/
theorem mrStatusWord_toNat (s : State) :
    s.mrStatusWord.toNat = s.mrInit.toNat + 2 * s.mrDecided.toNat + 4 * s.mrVerdict.toNat := by
  simp only [State.mrStatusWord, toNat_append_eq, BitVec.toNat_ofBool, BitVec.toNat_ofNat]
  omega

/-- PARAM as a number (10_state.md R17). -/
theorem paramWord_toNat (s : State) : s.paramWord.toNat = s.build.nw % 65536 := by
  simp only [State.paramWord, toNat_append_eq, BitVec.toNat_ofNat]
  omega

/-- The nine error codes (60_exceptions.md R103). -/
theorem errcode_mem_table (e : ErrCode) :
    (e, e.toBits.toNat) ∈ [(ErrCode.none, 0x0), (.busy, 0x1), (.opcode, 0x2), (.rsvd, 0x3), (.modZero, 0x4),
      (.noInit, 0x5), (.decided, 0x6), (.witness, 0x7), (.abort, 0x8)] := by
  cases e <;> decide

/-- Settles O35: each offset selects its register, whose word the lemmas above give as a number. -/
theorem registerMapReads : Obligations.RegisterMapReads := by
  intro s word hword
  simp only [hword]
  exact ⟨rfl, paramWord_toNat s, ctrlWord_toNat s, ⟨_, errcode_mem_table s.errcode, statusWord_toNat s⟩, rfl,
    mrStatusWord_toNat s, rfl, rfl⟩

/-! ### Writes of operand words (20_memory.md R48) -/

/-- No register below 0x020 shows anything of a W-bit register (R57). -/
theorem csrWord_wBitRegisters (s : State) (r : Csr) (a d n res mrn mrr mry : Nat) :
    ({ s with opa := a, opd := d, opn := n, res := res, mrn := mrn, mrr := mrr, mry := mry } : State).csrWord r =
      s.csrWord r := by cases r <;> rfl

/-- An admitted write of a window word shows in the bytes of that word alone (R41, R48). -/
theorem setWindowWord_sameBytesOutside (s : State) (x : Window) (i : Nat) (v : Word) :
    s.SameBytesOutside (fun off => Script.windowBase x + 4 * i ≤ off ∧ off < Script.windowBase x + 4 * i + 4)
      (s.setWindowWord x i v) := by
  obtain ⟨a, d, n, hset⟩ := setWindowWord_operands x i v s
  refine sameBytesOutside (by rw [hset]) (fun off r _ _ => ?_) (fun off y j hl hout => ?_)
  · rw [hset]
    exact csrWord_wBitRegisters s r a d n _ _ _ _
  · refine windowWord_setWindowWord_ne s v ?_
    rintro ⟨rfl, rfl⟩
    have hoff := eq_windowBase_of_locate hl
    omega

/-- The bytes of the aperture do not depend on the port's answer or on the agenda. -/
theorem byteAt_advance_respond (s : State) (x : Answer) (addr : Nat) :
    ((s.respond x).advance).byteAt addr = s.byteAt addr := by
  have hcsr : ∀ r, ((s.respond x).advance).csrWord r = s.csrWord r := fun r => by cases r <;> rfl
  simp [State.byteAt, hcsr]

/-- Settles O40: the step is the admitted write of the window word (`step_write_window`), with the rules of
`setWindowWord` for the word, the others and the bytes. -/
theorem operandWordWrite : Obligations.OperandWordWrite := by
  intro s x i v rest ha hx hi h256
  refine ⟨_, step_write_window ha (locate_windowBase x h256) (windowBase_aligned x i), ?_, fun y j h => ?_,
    fun off hout => ?_, ?_⟩
  · simp [windowWord_setWindowWord_same v hx hi]
  · simp [windowWord_setWindowWord_ne s v h]
  · rw [byteAt_advance_respond]
    exact setWindowWord_sameBytesOutside s x i v off hout
  · obtain ⟨a, d, n, hset⟩ := setWindowWord_operands x i v s
    simp [hset, State.respond, State.advance, ha]

/-! ### Ignored writes (20_memory.md R45, R49) -/

/-- A read-only register ignores a write (R49). -/
theorem writeCsr_readOnly {r : Csr} (h : r.isReadOnly = true) (v : Word) (s : State) : s.writeCsr r v = s := by
  cases r with
  | id | param | mrStatus | mrS | mrRounds => rfl
  | ctrl | status | cmd => simp [Csr.isReadOnly] at h

/-- A read-only window, and a word at or above NW, ignores a write (R45, R49). -/
theorem setWindowWord_ignored {x : Window} {i : Nat} {s : State} (h : x.isOperand = false ∨ s.build.nw ≤ i)
    (v : Word) : s.setWindowWord x i v = s := by
  unfold State.setWindowWord
  split
  · next hi =>
    have hx : x.isOperand = false := h.resolve_right (by omega)
    cases x with
    | opa | opd | opn => simp [Window.isOperand] at hx
    | res | mrn | mrr | mry => rfl
  · rfl

/-- Words that agree under a mask agree in each bit of the mask. -/
theorem getLsbD_eq_of_and_eq {v w m : Word} (h : v &&& m = w &&& m) {k : Nat} (hk : m.getLsbD k = true) :
    v.getLsbD k = w.getLsbD k := by
  have hbit := congrArg (·.getLsbD k) h
  simpa [hk] using hbit

/-- A write of CTRL looks at bits 3 to 0 alone (10_state.md R18). -/
theorem writeCtrl_congr {v w : Word} (h : v &&& 0xF#32 = w &&& 0xF#32) (s : State) :
    s.writeCtrl v = s.writeCtrl w := by
  unfold State.writeCtrl
  rw [getLsbD_eq_of_and_eq h (k := 0) rfl, getLsbD_eq_of_and_eq h (k := 1) rfl, getLsbD_eq_of_and_eq h (k := 2) rfl,
    getLsbD_eq_of_and_eq h (k := 3) rfl]

/-- A write of STATUS looks at bits 2 and 1 alone (10_state.md R19). -/
theorem writeStatus_congr {v w : Word} (h : v &&& 0x6#32 = w &&& 0x6#32) (s : State) :
    s.writeStatus v = s.writeStatus w := by
  unfold State.writeStatus
  rw [getLsbD_eq_of_and_eq h (k := 1) rfl, getLsbD_eq_of_and_eq h (k := 2) rfl]

/-- A write of a register leaves the agenda, and does the same whatever is to come. -/
theorem writeCsr_agenda (r : Csr) (v : Word) (s : State) (l : List Event) :
    ({ s with agenda := l } : State).writeCsr r v = { s.writeCsr r v with agenda := l } := by
  cases r with
  | id | param | mrStatus | mrS | mrRounds => rfl
  | ctrl =>
    simp only [State.writeCsr, State.writeCtrl, State.abort, State.setEnables]
    cases v.getLsbD 3 <;> cases v.getLsbD 2 <;> cases s.pend <;> rfl
  | status => simp only [State.writeCsr, writeStatus_eq]
  | cmd =>
    simp only [State.writeCsr, State.writeIllegal, State.busy]
    by_cases hp : s.pend.isSome = true
    · simp only [hp, if_true, State.raise]
    · simp only [hp]
      cases decodeWord v <;> rfl

/-- The next state after a write of CTRL or STATUS depends on the written word only through what the register makes
of it. -/
theorem step_write_csr_congr {r : Csr} {off : Nat} {v w : Word} (hl : locate off = .csr r) (h4 : off % 4 = 0)
    (hr : r ≠ .cmd) (h : ∀ s : State, s.writeCsr r v = s.writeCsr r w) (s : State) (rest : List Event) :
    step { s with agenda := Script.wr off v :: rest } = step { s with agenda := Script.wr off w :: rest } := by
  rw [step_write_csr (v := v) rfl hl h4 hr, step_write_csr (v := w) rfl hl h4 hr, h,
    writeCsr_agenda r w s (Script.wr off v :: rest), writeCsr_agenda r w s (Script.wr off w :: rest)]
  rfl

/-- Settles O41: the write is admitted, and its target ignores it. -/
theorem ignoredWritesAnswerOkay : Obligations.IgnoredWritesAnswerOkay := by
  refine ⟨fun s off v rest ha h4 h => ?_, fun s v w rest h => ?_, fun s v w rest h => ?_⟩
  · rcases h with ⟨r, hl, hro⟩ | ⟨x, i, hl, hx⟩
    · have hcmd : r ≠ .cmd := by
        rintro rfl
        simp [Csr.isReadOnly] at hro
      rw [step_write_csr ha hl h4 hcmd, writeCsr_readOnly hro, advance_respond ha]
    · rw [step_write_window ha hl h4, setWindowWord_ignored hx, advance_respond ha]
  · exact step_write_csr_congr (r := .ctrl) rfl rfl (by decide) (writeCtrl_congr h) s rest
  · exact step_write_csr_congr (r := .status) rfl rfl (by decide) (writeStatus_congr h) s rest

/-! ### The step of a command (20_memory.md R55) -/

/-- A word of the opcode table is decoded as the word that the bus carries (log 2). -/
theorem decodeTableWord_eq_some_iff {nbits w : Nat} {i : Instr} :
    decodeTableWord nbits w = some i ↔ decodeWord (BitVec.ofNat 32 (w % 2 ^ nbits)) = .instr i := by
  simp only [decodeTableWord, bytesOfWord, decodeBytes, wordOfBytes_lanes]
  cases decodeWord (BitVec.ofNat 32 (w % 2 ^ nbits)) <;> simp

/-- Settles O4: `step_issue`, `step_engine` and `step_silent`, and the word that `withFetchWord` places. -/
theorem stepRunsTheCommand : Obligations.StepRunsTheCommand :=
  ⟨fun _ _ _ _ ha hd => step_issue ha hd, fun _ _ _ ha hp => step_engine ha hp, fun _ _ ha hp => step_silent ha hp,
    fun _ _ _ _ hd => step_issue rfl (decodeTableWord_eq_some_iff.mp hd)⟩

/-! ### The ways of a W-bit integer (20_memory.md R57) -/

/-- The operand registers of two states agree. -/
def State.SameOperandValues (s t : State) : Prop := t.opa = s.opa ∧ t.opd = s.opd ∧ t.opn = s.opn

/-- Then so do the values behind the operand windows. -/
theorem State.SameOperandValues.windowValue {s t : State} (h : s.SameOperandValues t) {x : Window}
    (hx : x.isOperand = true) : t.windowValue x = s.windowValue x := by
  obtain ⟨ha, hd, hn⟩ := h
  cases x with
  | opa => exact ha
  | opd => exact hd
  | opn => exact hn
  | res | mrn | mrr | mry => simp [Window.isOperand] at hx

/-- A write of a window word leaves the other registers. -/
theorem windowValue_setWindowWord_ne {x y : Window} (h : y ≠ x) (i : Nat) (v : Word) (s : State) :
    (s.setWindowWord x i v).windowValue y = s.windowValue y := by
  rcases setWindowWord_cases x i v s with e | ⟨-, rfl, e⟩ | ⟨-, rfl, e⟩ | ⟨-, rfl, e⟩ <;> rw [e]
  all_goals cases y <;> simp [State.windowValue] at h ⊢

/-- A write of a 32-bit register leaves the operands, unless it is a soft reset (70_reset_and_hazards.md R121). -/
theorem writeCsr_operands (r : Csr) (v : Word) (s : State) :
    (r = .ctrl ∧ v.getLsbD 3 = true) ∨ s.SameOperandValues (s.writeCsr r v) := by
  cases r with
  | id | param | mrStatus | mrS | mrRounds => exact .inr ⟨rfl, rfl, rfl⟩
  | ctrl =>
    rcases writeCtrl_cases v s with ⟨h3, -⟩ | ⟨-, -, -, h⟩ | ⟨-, -, h⟩
    · exact .inl ⟨rfl, h3⟩
    · exact .inr (by rw [State.writeCsr, h]; exact ⟨rfl, rfl, rfl⟩)
    · exact .inr (by rw [State.writeCsr, h]; exact ⟨rfl, rfl, rfl⟩)
  | status => exact .inr (by rw [State.writeCsr, writeStatus_eq]; exact ⟨rfl, rfl, rfl⟩)
  | cmd =>
    rcases writeIllegal_cases v s with ⟨c, -, h⟩ | ⟨e, -, -, h⟩ | ⟨i, -, -, h⟩ <;>
      exact .inr (by rw [State.writeCsr, h]; exact ⟨rfl, rfl, rfl⟩)

/-- A CMD write leaves the operands (40_command_lifecycle.md R78). -/
theorem issue_operands {s t : State} {i : Instr} (h : s.issue i (checkOf i) (startOf i) = .next t) :
    s.SameOperandValues t := by
  rcases issue_cases h with ⟨c, -, rfl⟩ | ⟨e, -, -, rfl⟩ | ⟨-, -, rfl⟩
  · exact ⟨rfl, rfl, rfl⟩
  · exact ⟨rfl, rfl, rfl⟩
  · obtain ⟨p, d, hf⟩ := startOf_frame i (s.snapshot i) (s.accept (encode i))
    rw [hf]
    exact ⟨rfl, rfl, rfl⟩

/-- What a step makes of the operand registers (10_state.md R30 to R32): nothing, the reset state, or the word of an
admitted write. -/
inductive OperandKind (s t : State) : Prop
  /-- The operands stay. -/
  | kept (same : s.SameOperandValues t)
  /-- Reset or soft reset. -/
  | reset (resets : s.Resets) (a : Option Answer) (result : t = ({ s.toReset with answer := a } : State).advance)
  /-- An admitted write of a window word. -/
  | write (off size : Nat) (st : BitVec 4) (v : Word) (rest : List Event) (x : Window) (i : Nat)
      (head : s.agenda = .write off size st v :: rest) (resp : respOf off size (fullStrobes st) = .okay)
      (target : locate off = .window x i) (result : t = ((s.setWindowWord x i v).respond (.write .okay)).advance)

/-- A step is of one of these kinds. -/
theorem operandKind {s t : State} (h : step s = .next t) : OperandKind s t := by
  cases stepKind h with
  | complete c u _ _ he ht => exact .kept (by rw [ht, effectOf_frame he]; exact ⟨rfl, rfl, rfl⟩)
  | issue _ _ _ _ _ _ _ _ _ _ hi => exact .kept (issue_operands hi)
  | idle _ _ ht => exact .kept (by rw [ht]; exact ⟨rfl, rfl, rfl⟩)
  | pass _ _ _ ht => exact .kept (by rw [ht]; exact ⟨rfl, rfl, rfl⟩)
  | reset _ ha ht => exact .reset ((resets_cons_iff ha).mpr rfl) none ht
  | read _ _ _ _ ht => exact .kept (by rw [ht]; exact ⟨rfl, rfl, rfl⟩)
  | write off size st v rest ha _ ht =>
    rcases busWrite_cases off size st v s with ⟨r, -, -, e⟩ | ⟨r, hr, hl, e⟩ | ⟨x, i, hr, hl, e⟩
    · exact .kept (by rw [ht, e]; exact ⟨rfl, rfl, rfl⟩)
    · rcases writeCsr_operands r v s with ⟨rfl, h3⟩ | hsame
      · have hreset : (Event.write off size st v).isReset = true := isReset_write_iff.mpr ⟨hr, hl, h3⟩
        rw [busWrite_of_isReset s hreset] at ht
        exact .reset ((resets_cons_iff ha).mpr hreset) _ ht
      · rw [ht, e]
        exact .kept hsame
    · rw [e] at ht
      exact .write off size st v rest x i ha hr hl ht

/-- No bus read outside the windows depends on a W-bit register. -/
theorem busRead_wBitRegisters (s : State) (a d n res mrn mrr mry : Nat) {off : Nat}
    (h : off < 0x400 ∨ 0x2000 ≤ off) (size : Nat) :
    ({ s with opa := a, opd := d, opn := n, res := res, mrn := mrn, mrr := mrr, mry := mry } : State).busRead off size =
      s.busRead off size := by
  unfold State.busRead
  cases hl : locate off with
  | csr r => simp only [State.targetWord, csrWord_wBitRegisters]
  | window x i => exact absurd hl (locate_ne_window h x i)
  | reserved | outside => rfl

/-- Settles O57. In: by what a step makes of the operands (`OperandKind`). Out: `busRead_wBitRegisters`, and the
sources of irq are no W-bit registers. -/
theorem wBitValuesPassOnlyThroughTheWindows : Obligations.WBitValuesPassOnlyThroughTheWindows := by
  refine ⟨fun s t h x hx => ?_, ?_⟩
  · cases operandKind h with
    | kept same => exact .inl (same.windowValue hx)
    | reset hr a ht => exact .inr (.inl ⟨hr, by rw [ht]; cases x <;> rfl⟩)
    | write off size st v rest y i ha hresp hl ht =>
      by_cases hy : x = y
      · subst hy
        by_cases hi : i < s.build.nw
        · obtain ⟨-, h4, -⟩ := access_of_respOf_okay hresp
          have hoff := eq_windowBase_of_locate hl
          refine .inr (.inr ⟨i, off, size, st, v, rest, ha, hresp, by omega, hi, ?_, fun j hj => ?_⟩)
          · simp [ht, windowWord_setWindowWord_same v hx hi]
          · simp [ht, windowWord_setWindowWord_ne (x := x) (y := x) (i := i) s v (fun e => hj e.2)]
        · exact .inl (by simp [ht, setWindowWord_ignored (x := x) (.inr (Nat.le_of_not_lt hi)) v])
      · exact .inl (by simp [ht, windowValue_setWindowWord_ne hy])
  · rintro s t a d n res mrn mrr mry rfl
    exact ⟨rfl, fun off size h => busRead_wBitRegisters s a d n res mrn mrr mry h size⟩

end Sys2Proof.Machine
end

section
/-! Proofs for the family 30_encoding.md: which words are commands (R59 to R64), commands as bytes (R58), and the host's
`LD` (R67). -/

namespace Sys2Proof

/-! ### Which words are commands (30_encoding.md R61 to R64) -/

/-- The assigned OPCODEs are 0 to 4 (R61). -/
theorem opcodeOf_toNat_le (i : Instr) : (opcodeOf i).toNat ≤ 4 := by cases i <;> decide

/-- The word of a command as a number (R61, R63). -/
theorem encode_toNat (i : Instr) : (encode i).toNat = (opcodeOf i).toNat := by cases i <;> rfl

/-- Every command makes its round trip. -/
theorem roundTrip (i : Instr) : Laws.RoundTrip.Statement i := by
  cases i with
  | nop => exact Laws.RoundTrip.nop
  | powmod => exact Laws.RoundTrip.powmod
  | mrInit => exact Laws.RoundTrip.mrInit
  | mrRound => exact Laws.RoundTrip.mrRound
  | mrClear => exact Laws.RoundTrip.mrClear

/-- The word of a command decodes to it (R61). -/
theorem decodeWord_encode (i : Instr) : decodeWord (encode i) = .instr i := by
  obtain ⟨-, hword, -⟩ := roundTrip i
  exact hword

/-- What decoding can make of a word (R64): an E_OPCODE word, an E_RSVD word, or the command of its value. -/
theorem decodeWord_kinds (v : Word) :
    (4 < v.toNat % 256 ∧ decodeWord v = .rejected .unassignedOpcode) ∨
    (v.toNat % 256 ≤ 4 ∧ v.toNat / 256 ≠ 0 ∧ decodeWord v = .rejected .reservedBits) ∨
    (∃ i, v.toNat = (opcodeOf i).toNat ∧ decodeWord v = .instr i) := by
  rw [decodeWord_eq]
  by_cases hop : 4 < v.toNat % 256
  · exact .inl ⟨hop, if_pos hop⟩
  by_cases hrsvd : v.toNat / 256 = 0
  · right; right
    have hlt : v.toNat < 5 := by omega
    generalize v.toNat = m at *
    interval_cases m
    exacts [⟨.nop, rfl, rfl⟩, ⟨.powmod, rfl, rfl⟩, ⟨.mrInit, rfl, rfl⟩, ⟨.mrRound, rfl, rfl⟩, ⟨.mrClear, rfl, rfl⟩]
  · exact .inr (.inl ⟨by omega, hrsvd, by rw [if_neg hop, if_pos hrsvd]⟩)

/-- A word selects a command exactly when its value is the command's OPCODE (R61, R63). -/
theorem decodeWord_eq_instr_iff_toNat {v : Word} {i : Instr} :
    decodeWord v = .instr i ↔ v.toNat = (opcodeOf i).toNat := by
  constructor
  · intro h
    rcases decodeWord_kinds v with ⟨-, hd⟩ | ⟨-, -, hd⟩ | ⟨j, hj, hd⟩ <;> rw [h] at hd
    · simp at hd
    · simp at hd
    · rw [hj, Decoded.instr.inj hd]
  · intro h
    rw [← encode_toNat, BitVec.toNat_inj] at h
    rw [h, decodeWord_encode]

/-- A word selects a command exactly when it is the word that encodes it. -/
theorem decodeWord_eq_instr_iff {v : Word} {i : Instr} : decodeWord v = .instr i ↔ v = encode i := by
  rw [decodeWord_eq_instr_iff_toNat, ← encode_toNat, BitVec.toNat_inj]

/-- The E_OPCODE words (R62). -/
theorem decodeWord_eq_unassignedOpcode_iff {v : Word} :
    decodeWord v = .rejected .unassignedOpcode ↔ 4 < v.toNat % 256 := by
  rcases decodeWord_kinds v with ⟨hop, hd⟩ | ⟨hop, -, hd⟩ | ⟨i, hi, hd⟩ <;> rw [hd]
  · simp [hop]
  · simp [hop]
  · have hle := opcodeOf_toNat_le i
    simp only [reduceCtorEq, false_iff]
    omega

/-- The E_RSVD words (R63). -/
theorem decodeWord_eq_reservedBits_iff {v : Word} :
    decodeWord v = .rejected .reservedBits ↔ v.toNat % 256 ≤ 4 ∧ v.toNat / 256 ≠ 0 := by
  rcases decodeWord_kinds v with ⟨hop, hd⟩ | ⟨hop, hrsvd, hd⟩ | ⟨i, hi, hd⟩ <;> rw [hd]
  · simp [hop]
  · exact iff_of_true rfl ⟨hop, hrsvd⟩
  · have hle := opcodeOf_toNat_le i
    simp only [reduceCtorEq, false_iff]
    omega

/-- Settles O2: the three kinds of words (`decodeWord_kinds`), each read as an equivalence. -/
theorem everyWordIsOneOfThreeKinds : Obligations.EveryWordIsOneOfThreeKinds := fun _ =>
  ⟨fun _ => decodeWord_eq_instr_iff_toNat, decodeWord_eq_unassignedOpcode_iff, decodeWord_eq_reservedBits_iff⟩

/-- Settles O1: the first five words are encodings, and the others are of the kinds of R62 and R63. -/
theorem listedWordsDecode : Obligations.ListedWordsDecode :=
  ⟨decodeWord_encode .nop, decodeWord_encode .powmod, decodeWord_encode .mrInit, decodeWord_encode .mrRound,
    decodeWord_encode .mrClear,
    decodeWord_eq_unassignedOpcode_iff.mpr (by decide), decodeWord_eq_unassignedOpcode_iff.mpr (by decide),
    decodeWord_eq_reservedBits_iff.mpr (by decide)⟩

/-! ### Commands as bytes (30_encoding.md R58) -/

/-- Bytes decode to a command exactly when their first four are the lanes of a word that does (20_memory.md R41). -/
theorem decodeBytes_eq_instr_iff {bytes rest : List Byte} {i : Instr} :
    decodeBytes bytes = .instr i rest ↔ ∃ v, bytes = bytesOfWord v ++ rest ∧ decodeWord v = .instr i := by
  constructor
  · intro h
    unfold decodeBytes at h
    split at h
    · next b0 b1 b2 b3 tail =>
      rcases hd : decodeWord (wordOfBytes b0 b1 b2 b3) with j | e
      · simp only [hd, DecodedBytes.instr.injEq] at h
        obtain ⟨rfl, rfl⟩ := h
        exact ⟨_, by rw [bytesOfWord_wordOfBytes]; rfl, hd⟩
      · simp [hd] at h
    · simp at h
  · rintro ⟨v, rfl, hd⟩
    simp [bytesOfWord, decodeBytes, wordOfBytes_lanes, hd]

/-- Settles O3: the word that four bytes carry decodes exactly to the command that it encodes. -/
theorem decodeEncodeAgree : Obligations.DecodeEncodeAgree := by
  refine ⟨fun i rest _ => decodeBytes_eq_instr_iff.mpr ⟨encode i, rfl, decodeWord_encode i⟩, fun bytes i rest h => ?_⟩
  obtain ⟨v, hbytes, hd⟩ := decodeBytes_eq_instr_iff.mp h
  rw [hbytes, decodeWord_eq_instr_iff.mp hd, encodeBytes]

end Sys2Proof

namespace Sys2Proof.Machine

/-! ### Loading an operand word by word (30_encoding.md R67) -/

/-- The value of a register `r` after the words of `value` at the indices of a list are written into it. -/
def loadWords (value : Nat) (l : List Nat) (r : Nat) : Nat := l.foldl (fun r i => putWord r i (wordAt value i)) r

theorem loadWords_cons (value i : Nat) (l : List Nat) (r : Nat) :
    loadWords value (i :: l) r = loadWords value l (putWord r i (wordAt value i)) := rfl

theorem loadWords_range_succ (value n r : Nat) :
    loadWords value (List.range (n + 1)) r = putWord (loadWords value (List.range n) r) n (wordAt value n) := by
  simp [loadWords, List.range_succ]

/-- Loading the words below `n` replaces the low `32 n` bits. -/
theorem testBit_loadWords_range (value r n k : Nat) :
    (loadWords value (List.range n) r).testBit k = if k < 32 * n then value.testBit k else r.testBit k := by
  induction n with
  | zero => simp [loadWords]
  | succ n ih =>
    rw [loadWords_range_succ, testBit_putWord, ih, getLsbD_wordAt]
    by_cases hlow : k < 32 * n
    · have hlow' : k < 32 * (n + 1) := by omega
      simp [hlow, hlow']
    · by_cases hword : k < 32 * (n + 1)
      · have hbit : k - 32 * n < 32 := by omega
        have hk : 32 * n + (k - 32 * n) = k := by omega
        simp [hlow, hword, hbit, hk]
      · simp [hlow, hword]

/-- Loading every word of a register sets it, whatever it held. -/
theorem loadWords_range_eq {value r n : Nat} (hv : value < 2 ^ (32 * n)) (hr : r < 2 ^ (32 * n)) :
    loadWords value (List.range n) r = value := by
  apply Nat.eq_of_testBit_eq
  intro k
  rw [testBit_loadWords_range]
  split
  · rfl
  · next hk =>
    have hle : 2 ^ (32 * n) ≤ 2 ^ k := Nat.pow_le_pow_right (by norm_num) (by omega)
    rw [Nat.testBit_lt_two_pow (hr.trans_le hle), Nat.testBit_lt_two_pow (hv.trans_le hle)]

/-- `s` with `r` in the operand register behind a window; a read-only window has none (20_memory.md R44, R48). -/
def State.putOperand (x : Window) (r : Nat) (s : State) : State :=
  match x with
  | .opa => { s with opa := r }
  | .opd => { s with opd := r }
  | .opn => { s with opn := r }
  | .res | .mrn | .mrr | .mry => s

theorem windowValue_putOperand_same {x : Window} (hx : x.isOperand = true) (r : Nat) (s : State) :
    (s.putOperand x r).windowValue x = r := by
  cases x with
  | opa | opd | opn => rfl
  | res | mrn | mrr | mry => simp [Window.isOperand] at hx

theorem windowValue_putOperand_ne {x y : Window} (h : y ≠ x) (r : Nat) (s : State) :
    (s.putOperand x r).windowValue y = s.windowValue y := by
  cases x <;> cases y <;> simp [State.putOperand, State.windowValue] at h ⊢

@[simp] theorem putOperand_build (x : Window) (r : Nat) (s : State) : (s.putOperand x r).build = s.build := by
  cases x <;> rfl

@[simp] theorem putOperand_agenda (x : Window) (r : Nat) (s : State) : (s.putOperand x r).agenda = s.agenda := by
  cases x <;> rfl

/-- The port's answer and the agenda are behind no window. -/
theorem windowValue_answer_agenda (s : State) (ans : Option Answer) (rest : List Event) (x : Window) :
    ({ s with answer := ans, agenda := rest } : State).windowValue x = s.windowValue x := by
  cases x <;> rfl

/-- Writing an operand register changes that register alone. -/
theorem putOperand_frame (x : Window) (r : Nat) (s : State) (ans : Option Answer) (rest : List Event) :
    ({ s.putOperand x r with answer := ans, agenda := rest } : State) =
      { s with
        opa := (s.putOperand x r).opa
        opd := (s.putOperand x r).opd
        opn := (s.putOperand x r).opn
        answer := ans
        agenda := rest } := by
  cases x <;> rfl

/-- A write of a window word below NW puts that word into the operand register behind it (20_memory.md R48). -/
theorem setWindowWord_eq_putOperand {x : Window} {i : Nat} {s : State} (hi : i < s.build.nw) (v : Word) :
    s.setWindowWord x i v = s.putOperand x (putWord (s.windowValue x) i v) := by
  unfold State.setWindowWord
  rw [if_pos hi]
  cases x <;> rfl

/-- A run of writes of words of `value` to one operand window loads them into its register and changes nothing else. -/
theorem run_window_writes {x : Window} (hx : x.isOperand = true) (value : Nat) (rest : List Event) (l : List Nat) :
    ∀ s : State, s.build.nw ≤ 256 → (∀ i ∈ l, i < s.build.nw) →
      s.agenda = l.map (fun i => Script.wr (Script.windowBase x + 4 * i) (wordAt value i)) ++ rest →
      Sys2Proof.core.run l.length s = .next { s.putOperand x (loadWords value l (s.windowValue x)) with
        answer := if l = [] then s.answer else some (.write .okay)
        agenda := rest } := by
  induction l with
  | nil =>
    intro s _ _ ha
    have ha' : s.agenda = rest := ha
    subst ha'
    cases x <;> rfl
  | cons i l ih =>
    intro s hnw hl ha
    have hi := hl i List.mem_cons_self
    have hstep := step_write_window ha (locate_windowBase x (hi.trans_le hnw)) (windowBase_aligned x i)
    rw [setWindowWord_eq_putOperand hi] at hstep
    rw [List.length_cons, run_succ hstep, ih _ ?nw ?indices ?agenda, windowValue_advance, windowValue_respond,
      windowValue_putOperand_same hx, loadWords_cons]
    · cases x <;> simp [State.putOperand, State.respond, State.advance]
    case nw => simpa using hnw
    case indices => simpa using fun j hj => hl j (List.mem_cons_of_mem i hj)
    case agenda => simp [ha]

/-- A legal build has 1 to 256 operand words (00_scope.md R5). -/
theorem Build.nw_bounds {b : Build} (h : b.legal = true) : 1 ≤ b.nw ∧ b.nw ≤ 256 := by
  simp only [Build.legal, Bool.and_eq_true, decide_eq_true_eq] at h
  obtain ⟨hnw, -⟩ := h
  exact hnw

/-- If every W-bit register fits, the value behind each window does (00_scope.md R13). -/
theorem State.RegsFit.windowValue_lt {s : State} (h : s.RegsFit) (x : Window) : s.windowValue x < 2 ^ s.build.w := by
  obtain ⟨ha, hd, hn, hres, hmrn, hmrr, hmry⟩ := h
  cases x <;> assumption

/-- Settles O42: `LD` writes the words below NW in their order (`run_window_writes`), and these are the whole register
(`loadWords_range_eq`). -/
theorem loadSetsTheOperand : Obligations.LoadSetsTheOperand := by
  intro s x value rest hlegal hfit hx hv ha
  obtain ⟨hpos, hle⟩ := Build.nw_bounds hlegal
  have hrun := run_window_writes hx value rest (List.range s.build.nw) s hle (fun i hi => List.mem_range.mp hi) ha
  have hne : List.range s.build.nw ≠ [] := by simpa using Nat.ne_of_gt hpos
  rw [List.length_range, if_neg hne, loadWords_range_eq hv (hfit.windowValue_lt x)] at hrun
  refine ⟨_, hrun, ?_, fun y hy => ?_, putOperand_frame x value s _ rest⟩
  · rw [windowValue_answer_agenda, windowValue_putOperand_same hx]
  · rw [windowValue_answer_agenda, windowValue_putOperand_ne hy]

end Sys2Proof.Machine
end

section
/-! Proofs for the family 40_command_lifecycle.md: a CMD write of any word (R68 to R73, R78), NOP (R77), the engine's
step (R71, R75), and when RES and the context change (R79). -/

namespace Sys2Proof.Machine

/-! ### A step from a state of the invariant (R75) -/

/-- The modulus of a command in flight is not 0: its acceptance saw to it (R72, 41_powmod.md R81). -/
theorem State.Inv.effectOf_ne_fault {s : State} (h : s.Inv) {c : Pending} (hp : s.pend = some c) (f : Fault) :
    effectOf c.op c s ≠ .fault f := by
  obtain ⟨-, -, -, -, hmod, hround⟩ := h.flight c hp
  rw [ne_eq, effectOf_eq_fault_iff]
  rintro (⟨hop, h0⟩ | ⟨hop, h0⟩)
  · exact hmod hop h0
  · obtain ⟨-, -, -, hle⟩ := hround hop
    omega

/-- In a state of the invariant either half of every command gives a next state. -/
theorem State.Inv.exec_eq_next {s : State} (h : s.Inv) (i : Instr) : ∃ t, exec i s = .next t := by
  obtain ⟨hfault, hrefused⟩ := onlyAZeroModulusStops i s
  rcases he : exec i s with t | f | r
  · exact ⟨t, rfl⟩
  · obtain ⟨-, c, hp, rfl, h0⟩ := (hfault f).mp he
    exact absurd (effectOf_eq_fault_iff.mpr h0) (h.effectOf_ne_fault hp f)
  · exact absurd he (hrefused r)

/-- The end of the agenda makes the engine's step the next one and changes no register (log 3). -/
theorem State.Inv.schedule {s : State} (h : s.Inv) : s.schedule.Inv := by
  have hagenda : ∃ l, s.schedule = { s with agenda := l } := by
    unfold State.schedule
    split
    · split
      · exact ⟨_, rfl⟩
      · exact ⟨s.agenda, rfl⟩
    · exact ⟨s.agenda, rfl⟩
  obtain ⟨l, hl⟩ := hagenda
  rw [hl]
  exact ⟨h.legal, h.fits, h.errs, h.context, h.flight⟩

/-- Settles O53: a step is a half of a command, which does not stop (`State.Inv.exec_eq_next`), or no command's. -/
theorem invariantStatesNeverStop : Obligations.InvariantStatesNeverStop := by
  intro s h
  unfold SafeStep step
  split
  · exact h.schedule.exec_eq_next _
  · exact ⟨_, rfl⟩

/-! ### A CMD write of any word (R68 to R73) -/

/-- A CMD write of a command's word is that command's issue half (R69). -/
theorem step_cmd_instr {s : State} {v : Word} {i : Instr} {rest : List Event}
    (ha : s.agenda = Script.wr cmdOffset v :: rest) (hd : decodeWord v = .instr i) :
    step s = s.issue i (checkOf i) (startOf i) := by
  rw [step_issue ha hd, exec_issue i (by simp [State.engineTurn, ha, Script.wr])]

/-- A CMD write of an illegal word is performed as a bus write (R70). -/
theorem step_cmd_illegal {s : State} {v : Word} {e : DecodeError} {rest : List Event}
    (ha : s.agenda = Script.wr cmdOffset v :: rest) (hd : decodeWord v = .rejected e) :
    step s = .next ((s.writeIllegal v).respond (.write .okay)).advance := by
  rw [step_write ha (.inr (.inr ⟨e, hd⟩))]
  rfl

/-- A CMD write while a command is in flight raises E_BUSY, whatever the word (R68). -/
theorem step_cmd_busy {s : State} {v : Word} {c : Pending} {rest : List Event}
    (ha : s.agenda = Script.wr cmdOffset v :: rest) (hp : s.pend = some c) :
    step s = .next ((s.raise .busy).respond (.write .okay)).advance := by
  rcases hd : decodeWord v with i | e
  · rw [step_cmd_instr ha hd, issue_busy hp]
  · rw [step_cmd_illegal ha hd, State.writeIllegal, if_pos (busy_eq_true_iff.mpr (by simp [hp]))]

/-- A CMD write of an illegal word to an idle block is accepted and refused (R70). -/
theorem step_cmd_rejected {s : State} {v : Word} {e : DecodeError} {rest : List Event}
    (ha : s.agenda = Script.wr cmdOffset v :: rest) (hp : s.pend = none) (hd : decodeWord v = .rejected e) :
    step s = .next ((s.refuse (errOfReject e) v).respond (.write .okay)).advance := by
  rw [step_cmd_illegal ha hd, State.writeIllegal, if_neg (by simp [State.busy, hp]), hd]

/-- What a CMD write of a word makes of the block (R68 to R73). -/
inductive CmdWriteKind (s : State) (v : Word) (t : State) : Prop
  /-- A command is in flight. -/
  | busy (pend : s.busy = true) (result : t = ((s.raise .busy).respond (.write .okay)).advance)
  /-- The word is illegal, or its command fails a check. -/
  | refused (e : ErrCode) (pend : s.pend = none)
      (result : t = ((s.refuse e v).respond (.write .okay)).advance)
  /-- The word's command passes its checks. -/
  | started (i : Instr) (pend : s.pend = none) (word : decodeWord v = .instr i)
      (check : checkOf i (s.snapshot i) s = none)
      (result : t = ((startOf i (s.snapshot i) (s.accept v)).respond (.write .okay)).advance)

/-- A CMD write is of one of these kinds. -/
theorem cmdWriteKind {s t : State} {v : Word} {rest : List Event} (ha : s.agenda = Script.wr cmdOffset v :: rest)
    (h : step s = .next t) : CmdWriteKind s v t := by
  rcases hd : decodeWord v with i | e
  · have hv := decodeWord_eq_instr_iff.mp hd
    rw [step_cmd_instr ha hd] at h
    rcases issue_cases h with ⟨c, hp, ht⟩ | ⟨e, hp, -, ht⟩ | ⟨hp, hc, ht⟩
    · exact .busy (busy_eq_true_iff.mpr (by simp [hp])) ht
    · exact .refused e hp (hv ▸ ht)
    · exact .started i hp hd hc (hv ▸ ht)
  · cases hp : s.pend with
    | none =>
      rw [step_cmd_rejected ha hp hd] at h
      exact .refused _ hp (Host.Outcome.next.inj h).symm
    | some c =>
      rw [step_cmd_busy ha hp] at h
      exact .busy (busy_eq_true_iff.mpr (by simp [hp])) (Host.Outcome.next.inj h).symm

/-- Settles O5: `step_cmd_busy`, field by field. -/
theorem cmdWriteWhileBusyIsRejected : Obligations.CmdWriteWhileBusyIsRejected := by
  intro s c v rest ha hp
  rw [step_cmd_busy ha hp]
  simp [State.raise, State.respond, State.advance, ha]

/-- The error of an illegal word: E_OPCODE before E_RSVD (R70). -/
theorem decodeWord_of_illegal {v : Word} (h : 4 < v.toNat % 256 ∨ v.toNat / 256 ≠ 0) :
    ∃ e, decodeWord v = .rejected e ∧ errOfReject e = if 4 < v.toNat % 256 then .opcode else .rsvd := by
  by_cases hop : 4 < v.toNat % 256
  · exact ⟨_, decodeWord_eq_unassignedOpcode_iff.mpr hop, by rw [if_pos hop, errOfReject]⟩
  · exact ⟨_, decodeWord_eq_reservedBits_iff.mpr ⟨by omega, h.resolve_left hop⟩, by rw [if_neg hop, errOfReject]⟩

/-- Settles O6: the word is rejected (`decodeWord_of_illegal`), so it is refused at once (`step_cmd_rejected`). -/
theorem illegalWordIsRefused : Obligations.IllegalWordIsRefused := by
  intro s v rest ha hp hv
  obtain ⟨e, hd, he⟩ := decodeWord_of_illegal hv
  rw [step_cmd_rejected ha hp hd, he]
  simp [State.refuse, State.accept, State.raise, State.finish, State.respond, State.advance, ha]

/-- Settles O7: NOP has no check, so an idle block accepts it (`issue_started`) and a busy one does not
(`issue_busy`). -/
theorem nopCompletesAtAcceptance : Obligations.NopCompletesAtAcceptance := by
  intro s hturn
  rw [exec_issue .nop hturn]
  refine ⟨fun hp => ?_, fun hp => ?_⟩
  · rw [issue_started hp rfl]
    rfl
  · obtain ⟨c, hc⟩ := Option.isSome_iff_exists.mp hp
    rw [issue_busy hc]
    rfl

/-- A command other than NOP that passes its checks on an idle block goes in flight with its snapshot (R71, R73). -/
theorem exec_launched {s : State} {i : Instr} (hturn : s.engineTurn = false) (hp : s.pend = none) (hi : i ≠ .nop)
    (hc : checkOf i (s.snapshot i) s = none) :
    exec i s = .next { s with
      cmdLast := encode i
      done := false
      pend := some (s.snapshot i)
      answer := some (.write .okay)
      agenda := s.agenda.tail } := by
  rw [exec_issue i hturn, issue_started hp hc, startOf_of_ne_nop hi]
  rfl

/-- Settles O8: the three commands pass their checks, so `exec_launched` says what they do. -/
theorem uncheckedCommandsStart : Obligations.UncheckedCommandsStart := by
  intro s i v hturn hp h
  rcases h with ⟨rfl, hn, rfl⟩ | ⟨rfl, rfl⟩ | ⟨rfl, rfl⟩
  · exact exec_launched hturn hp (by decide) ((checkPowmod_eq_none (s := s)).mpr hn)
  · exact exec_launched hturn hp (by decide) rfl
  · exact exec_launched hturn hp (by decide) rfl

/-! ### What a CMD write leaves alone (R77, R78) -/

/-- A CMD write leaves the operands, the enables and the build alone. -/
theorem issue_sameOperands {s t : State} {i : Instr} (h : s.issue i (checkOf i) (startOf i) = .next t) :
    s.SameOperands t := by
  rcases issue_cases h with ⟨c, -, rfl⟩ | ⟨e, -, -, rfl⟩ | ⟨-, -, rfl⟩
  · simp [State.SameOperands]
  · simp [State.SameOperands]
  · obtain ⟨p, d, hf⟩ := startOf_frame i (s.snapshot i) (s.accept (encode i))
    simp [State.SameOperands, hf]

/-- Whatever a CMD write starts or refuses, it is precise (R78). -/
theorem CmdWriteKind.frame {s t : State} {v : Word} (h : CmdWriteKind s v t) :
    s.SameResults t ∧ s.SameOperands t ∧ t.answer = some (.write .okay) ∧ t.agenda = s.agenda.tail := by
  rcases h with ⟨-, rfl⟩ | ⟨e, -, rfl⟩ | ⟨i, -, -, -, rfl⟩
  · simp [State.SameResults, State.SameOperands]
  · simp [State.SameResults, State.SameOperands, State.refuse]
  · obtain ⟨p, d, hf⟩ := startOf_frame i (s.snapshot i) (s.accept v)
    simp [State.SameResults, State.SameOperands, hf]

/-- A CMD write to an idle block leaves it idle and DONE, or starts the word's command (R70, R72, R73). -/
theorem CmdWriteKind.idle_cases {s t : State} {v : Word} (h : CmdWriteKind s v t) (hidle : s.busy = false) :
    t.cmdLast = v ∧
      (t.pend = none ∧ t.done = true ∨
        ∃ i, i ≠ .nop ∧ v.toNat = (opcodeOf i).toNat ∧ t.pend = some (s.snapshot i) ∧ t.done = false ∧
          t.err = s.err ∧ t.errcode = s.errcode) := by
  rcases h with ⟨hbusy, -⟩ | ⟨e, hp, rfl⟩ | ⟨i, hp, hd, -, rfl⟩
  · simp [hidle] at hbusy
  · exact ⟨rfl, .inl ⟨hp, rfl⟩⟩
  · by_cases hi : i = .nop
    · subst hi
      exact ⟨rfl, .inl ⟨hp, rfl⟩⟩
    · rw [startOf_of_ne_nop hi]
      exact ⟨rfl, .inr ⟨i, hi, decodeWord_eq_instr_iff_toNat.mp hd, rfl, rfl, rfl, rfl⟩⟩

/-- Settles O12, by the kinds of a CMD write (`CmdWriteKind`). -/
theorem cmdWriteIsPrecise : Obligations.CmdWriteIsPrecise := by
  intro s t v rest ha h
  have hkind := cmdWriteKind ha h
  obtain ⟨hresults, hoperands, hanswer, hagenda⟩ := hkind.frame
  refine ⟨hresults, hoperands, hanswer, by simp [hagenda, ha], fun hbusy => ?_, hkind.idle_cases⟩
  obtain ⟨c, hp⟩ := Option.isSome_iff_exists.mp hbusy
  rw [step_cmd_busy ha hp] at h
  obtain rfl := Host.Outcome.next.inj h
  exact ⟨rfl, rfl, rfl, rfl⟩

/-- If the operands, the enables, the build, RES and the context stay, then so do all bytes but those of STATUS and
CMD (20_memory.md R44). -/
theorem sameBytesOutside_commandBytes {s t : State} (ho : s.SameOperands t) (hr : s.SameResults t) :
    s.SameBytesOutside commandBytes t := by
  obtain ⟨ha, hd, hn, hieDone, hieErr, hb⟩ := ho
  obtain ⟨hres, hmrn, hmrr, hmry, hmrS, hmrRounds, hinit, hdecided, hverdict⟩ := hr
  refine sameBytesOutside hb (fun off r hl hout => ?_) (fun off x i _ _ => windowWord_congr hb ?_ i)
  · obtain ⟨-, hk⟩ := csr_of_locate hl
    have hindex := csrAt_index hk
    unfold commandBytes at hout
    cases r with
    | id => rfl
    | param => simp [State.csrWord, State.paramWord, hb]
    | ctrl => simp [State.csrWord, State.ctrlWord, hieDone, hieErr]
    | status | cmd => simp only at hindex; omega
    | mrStatus => simp [State.csrWord, State.mrStatusWord, hinit, hdecided, hverdict]
    | mrS => exact hmrS
    | mrRounds => exact hmrRounds
  · cases x <;> assumption

/-- Settles O23: NOP is issued, and an issue leaves everything alone that the frame names; PEND stays because NOP never
goes in flight (`issue_pend_cases`). -/
theorem nopFrame : Obligations.NopFrame := by
  intro s t hturn h
  rw [exec_issue .nop hturn] at h
  have hoperands := issue_sameOperands h
  obtain ⟨-, hresults⟩ := issue_keeps_results h
  have hpend : t.pend = s.pend := (issue_pend_cases h).resolve_right fun ⟨hne, _⟩ => hne rfl
  exact ⟨hoperands, hresults, hpend, sameBytesOutside_commandBytes hoperands hresults⟩

/-! ### When RES and the context change (R79) -/

/-- A reset is one of the steps that may change RES and the context. -/
theorem mayChangeResults_of_isReset {e : Event} (h : e.isReset = true) : e.mayChangeResults = true := by
  cases e with
  | hwReset => rfl
  | write off size st v => exact h
  | read _ _ | engine => simp [Event.isReset] at h

/-- Settles O30, by what a step makes of RES and the context (`ResultKind`): the step is neither a completion, which
is the engine's, nor a reset. -/
theorem resultsChangeOnlyAtCompletion : Obligations.ResultsChangeOnlyAtCompletion := by
  intro s t e rest ha he h
  cases resultKind h with
  | complete c _ _ hcompletes =>
    have hne : e ≠ .engine := by
      rintro rfl
      simp [Event.mayChangeResults] at he
    exact absurd hcompletes (not_completes_of_head c.op ha hne)
  | reset hresets =>
    have hmay := mayChangeResults_of_isReset ((resets_cons_iff ha).mp hresets)
    simp [he] at hmay
  | kept _ _ _ hresults => exact hresults

/-! ### Operand writes and the engine's step (R71) -/

/-- An effect works on the snapshot: it does the same whatever the operand registers, the port's answer and the agenda
hold, and leaves them alone. -/
theorem effectOf_liveOperands {i : Instr} {c : Pending} {s u : State} (h : effectOf i c s = .next u) (a d n : Nat)
    (x : Option Answer) (l : List Event) :
    effectOf i c { s with opa := a, opd := d, opn := n, answer := x, agenda := l } =
      .next { u with opa := a, opd := d, opn := n, answer := x, agenda := l } := by
  cases i with
  | nop => obtain rfl := Host.Outcome.next.inj h; rfl
  | powmod =>
    simp only [effectOf, effectPowmod] at h ⊢
    split at h
    · simp at h
    · next h0 => obtain rfl := Host.Outcome.next.inj h; rw [if_neg h0]
  | mrInit => obtain rfl := Host.Outcome.next.inj h; rfl
  | mrRound =>
    simp only [effectOf, effectMrRound] at h ⊢
    split at h
    · simp at h
    · next h0 => obtain rfl := Host.Outcome.next.inj h; rw [if_neg h0]
  | mrClear => obtain rfl := Host.Outcome.next.inj h; rfl

/-- A write of a window word looks at the build and the operand registers alone. -/
theorem setWindowWord_congr {s t : State} (hb : t.build = s.build) (ho : s.SameOperandValues t) (x : Window) (i : Nat)
    (v : Word) :
    t.setWindowWord x i v = { t with
      opa := (s.setWindowWord x i v).opa
      opd := (s.setWindowWord x i v).opd
      opn := (s.setWindowWord x i v).opn } := by
  obtain ⟨ha, hd, hn⟩ := ho
  by_cases hi : i < s.build.nw
  · have hi' : i < t.build.nw := hb ▸ hi
    simp only [State.setWindowWord, hi, hi', if_true]
    cases x <;> simp only [← ha, ← hd, ← hn]
  · have hi' : ¬ i < t.build.nw := hb ▸ hi
    simp only [State.setWindowWord, hi, hi', if_false, ← ha, ← hd, ← hn]

/-- The engine's step of the command in flight is its effect and the completion (R75). -/
theorem step_completes {s u : State} {c : Pending} {rest : List Event} (he : effectOf c.op c s = .next u)
    (ha : s.agenda = .engine :: rest) (hp : s.pend = some c) : step s = .next u.complete.advance := by
  rw [step_engine ha hp, exec_engine c.op (by simp [State.engineTurn, ha]), engineStep_next hp rfl he]

/-- If the engine's step gives a next state, so does the effect of the command in flight. -/
theorem step_engine_eq_next {s t : State} {c : Pending} {rest : List Event} (ha : s.agenda = .engine :: rest)
    (hp : s.pend = some c) (h : step s = .next t) : ∃ u, effectOf c.op c s = .next u ∧ t = u.complete.advance := by
  rw [step_engine ha hp] at h
  exact exec_engine_cases ha hp h

/-- An admitted write of a window word, on a block with the build and the operand registers of `s`. -/
theorem step_operand_write {s t : State} {x : Window} {i off : Nat} {v : Word} {rest : List Event}
    (hb : t.build = s.build) (ho : s.SameOperandValues t) (ha : t.agenda = Script.wr off v :: rest)
    (hl : locate off = .window x i) (h4 : off % 4 = 0) :
    step t = .next { t with
      opa := (s.setWindowWord x i v).opa
      opd := (s.setWindowWord x i v).opd
      opn := (s.setWindowWord x i v).opn
      answer := some (.write .okay)
      agenda := rest } := by
  rw [step_write_window ha hl h4, setWindowWord_congr hb ho]
  simp [State.respond, State.advance, ha]

/-- A run that gives a state takes its first step. -/
theorem run_succ_eq_next {k : Nat} {s t : State} (h : Sys2Proof.core.run (k + 1) s = .next t) :
    ∃ u, step s = .next u ∧ Sys2Proof.core.run k u = .next t := by
  rcases hs : step s with u | f | r
  · rw [run_succ hs] at h
    exact ⟨u, rfl, h⟩
  · simp [Host.Core.run, show Sys2Proof.core.step s = .fault f from hs] at h
  · simp [Host.Core.run, show Sys2Proof.core.step s = .refused r from hs] at h

/-- A run of two steps. -/
theorem run_two_eq_next_iff {s t : State} :
    Sys2Proof.core.run 2 s = .next t ↔ ∃ u, step s = .next u ∧ step u = .next t := by
  constructor
  · intro h
    obtain ⟨u, hu, h1⟩ := run_succ_eq_next h
    obtain ⟨t', ht, h0⟩ := run_succ_eq_next h1
    exact ⟨u, hu, ht.trans h0⟩
  · rintro ⟨u, hu, ht⟩
    exact (run_succ hu).trans (run_succ ht)

/-- Settles O31: whichever of the two steps comes first, the effect is that on the snapshot
(`effectOf_liveOperands`) and the write is that on the operands of `s` (`step_operand_write`). -/
theorem operandWritesDoNotReachTheCommandInFlight : Obligations.OperandWritesDoNotReachTheCommandInFlight := by
  intro s t c off v rest hp hlo hhi h4 h
  obtain ⟨x, i, hl, -, -⟩ := locate_window_of_range hlo (by omega)
  obtain ⟨u, hengine, hwrite⟩ := run_two_eq_next_iff.mp h
  obtain ⟨w, heffect, rfl⟩ :=
    step_engine_eq_next (s := { s with agenda := .engine :: Script.wr off v :: rest }) rfl hp hengine
  have hframe := effectOf_frame heffect
  have hagenda : w.complete.advance.agenda = Script.wr off v :: rest := by rw [hframe]; rfl
  have hbuild : w.build = s.build := by rw [hframe]
  have hsame : s.SameOperandValues w := by rw [hframe]; exact ⟨rfl, rfl, rfl⟩
  rw [step_operand_write (t := w.complete.advance) hbuild hsame hagenda hl h4] at hwrite
  obtain rfl := Host.Outcome.next.inj hwrite
  have heffect' := effectOf_liveOperands heffect (s.setWindowWord x i v).opa (s.setWindowWord x i v).opd
    (s.setWindowWord x i v).opn (some (.write .okay)) (.engine :: rest)
  have hengine' := step_completes heffect' rfl hp
  exact run_two_eq_next_iff.mpr ⟨_, step_operand_write (s := s) rfl ⟨rfl, rfl, rfl⟩ rfl hl h4, hengine'⟩

end Sys2Proof.Machine
end

section
/-! Proofs for the family 41_powmod.md: the square-and-multiply loop (R82, R84), POWMOD's result (R80, R83), its refusal
(R81) and its frame (R86). -/

namespace Sys2Proof.Machine

/-! ### The square-and-multiply loop (R82 to R84) -/

/-- One turn of the loop keeps the product: the low bit of the exponent goes into the value accumulator, and squaring
the base makes up for halving the exponent (R84). -/
theorem powLoop_turn_modEq (n e v p : Nat) :
    (if e % 2 = 1 then v * p % n else v) * (p * p % n) ^ (e / 2) ≡ v * p ^ e [MOD n] := by
  have hsquare : (p * p % n) ^ (e / 2) ≡ p ^ (2 * (e / 2)) [MOD n] := by
    rw [pow_mul, pow_two]
    exact (Nat.mod_modEq _ n).pow _
  by_cases hodd : e % 2 = 1
  · have he : p ^ e = p * p ^ (2 * (e / 2)) := by
      rw [← pow_succ']
      congr 1
      omega
    rw [if_pos hodd, he, ← mul_assoc]
    exact (Nat.mod_modEq _ n).mul hsquare
  · have he : 2 * (e / 2) = e := by omega
    rw [he] at hsquare
    rw [if_neg hodd]
    exact hsquare.mul_left v

/-- With enough turns the loop computes `v * p^e` modulo `n` (R84). -/
theorem powLoop_modEq (n fuel : Nat) :
    ∀ {e : Nat} (v p : Nat), bitlen e ≤ fuel → powLoop n fuel e v p ≡ v * p ^ e [MOD n] := by
  induction fuel with
  | zero =>
    intro e v p h
    obtain rfl : e = 0 := by
      by_contra he
      have := bitlen_half (Nat.pos_of_ne_zero he)
      omega
    simp [Nat.ModEq.refl]
  | succ fuel ih =>
    intro e v p h
    rcases Nat.eq_zero_or_pos e with rfl | he
    · simp [Nat.ModEq.refl]
    · have hhalf : bitlen (e / 2) ≤ fuel := by
        have := bitlen_half he
        omega
      rw [powLoop_succ n fuel e v p he]
      exact (ih _ _ hhalf).trans (powLoop_turn_modEq n e v p)

/-- Settles O14, by induction on the turns (`powLoop_modEq`). -/
theorem powLoopKeepsItsProduct : Obligations.PowLoopKeepsItsProduct :=
  fun n fuel _ v p _ h => powLoop_modEq n fuel v p h

/-- The loop started at 1 computes the power, and the final reduction makes it the remainder (R83, R84). -/
theorem powMod_eq (a d n : Nat) : powMod a d n = a ^ d % n := by
  have h : powLoop n (bitlen d) d 1 a ≡ 1 * a ^ d [MOD n] := powLoop_modEq n _ 1 a le_rfl
  rwa [one_mul] at h

/-! ### POWMOD's result and its refusal (R80, R81) -/

/-- POWMOD's effect with a nonzero modulus (R80). -/
theorem effectOf_powmod {c : Pending} (hn : c.n ≠ 0) (s : State) :
    effectOf .powmod c s = .next { s with res := c.a ^ c.d % c.n } := by
  rw [effectOf, effectPowmod, if_neg hn, powMod_eq]

/-- Settles O15: the engine's step is the effect (`effectOf_powmod`) and the completion. -/
theorem powmodComputesThePower : Obligations.PowmodComputesThePower := by
  intro s a d n hturn hp hn
  have heffect := effectOf_powmod (c := ⟨.powmod, a, d, n⟩) (Nat.ne_of_gt hn) s
  rw [exec_engine .powmod hturn, engineStep_next hp rfl heffect]
  rfl

/-- Settles O9: the check fails with E_MODZERO, so the idle block refuses the command (`issue_refused`). -/
theorem powmodWithZeroModulusIsRefused : Obligations.PowmodWithZeroModulusIsRefused := by
  intro s hturn hp hn
  have hcheck : checkOf .powmod (s.snapshot .powmod) s = some .modZero := if_pos hn
  rw [exec_issue .powmod hturn, issue_refused hp hcheck]
  rfl

/-! ### POWMOD's frame (R86) -/

/-- On the engine's turn POWMOD changes RES, PEND and DONE at most, and the agenda moves on. -/
theorem exec_powmod_engine_frame {s t : State} (hturn : s.engineTurn = true) (h : exec .powmod s = .next t) :
    t = { s with res := t.res, pend := t.pend, done := t.done, agenda := t.agenda } := by
  rw [exec_engine .powmod hturn] at h
  rcases engineStep_cases h with ⟨c, u, -, -, he, rfl⟩ | ⟨-, rfl⟩
  · rw [effectOf_keeps_context (.inr rfl) he]
    rfl
  · rfl

/-- Either half of POWMOD keeps the operands, the enables, the build and, but for RES, the results. -/
theorem exec_powmod_keeps {s t : State} (h : exec .powmod s = .next t) :
    s.SameOperands t ∧ s.SameResults { t with res := s.res } := by
  cases hturn : s.engineTurn with
  | false =>
    rw [exec_issue .powmod hturn] at h
    obtain ⟨-, -, hcontext⟩ := issue_keeps_results h
    exact ⟨issue_sameOperands h, rfl, hcontext⟩
  | true =>
    rw [exec_powmod_engine_frame hturn h]
    simp [State.SameOperands, State.SameResults]

/-- A value of RES shows in the bytes of RES alone (20_memory.md R44). -/
theorem sameBytesOutside_resultBytes (s : State) (r : Nat) : s.SameBytesOutside resultBytes { s with res := r } := by
  refine sameBytesOutside rfl (fun off c _ _ => by cases c <;> rfl) (fun off x i hl hout => ?_)
  obtain ⟨-, -, hk, -⟩ := window_of_locate hl
  have hindex := windowAt_index hk
  unfold resultBytes at hout
  cases x with
  | res => simp only at hindex; omega
  | opa | opd | opn | mrn | mrr | mry => rfl

/-- If the operands, the enables, the build and the results but for RES stay, then so do all bytes but those of STATUS,
CMD and RES (20_memory.md R44). -/
theorem sameBytesOutside_commandOrResultBytes {s t : State} (ho : s.SameOperands t)
    (hr : s.SameResults { t with res := s.res }) :
    s.SameBytesOutside (fun off => commandBytes off ∨ resultBytes off) t := by
  intro off hout
  obtain ⟨hcommand, hresult⟩ := not_or.mp hout
  have ⟨_, _, _, _, _, hb⟩ := ho
  calc t.byteAt (s.build.base + off)
      = ({ t with res := s.res } : State).byteAt (s.build.base + off) := by
        rw [← hb]
        exact sameBytesOutside_resultBytes { t with res := s.res } t.res off hresult
    _ = s.byteAt (s.build.base + off) := sameBytesOutside_commandBytes (t := { t with res := s.res }) ho hr off hcommand

/-- `s` with the Miller-Rabin context of `m`. -/
def State.withContextOf (s m : State) : State :=
  { s with
    mrn := m.mrn
    mrr := m.mrr
    mry := m.mry
    mrS := m.mrS
    mrRounds := m.mrRounds
    mrInit := m.mrInit
    mrDecided := m.mrDecided
    mrVerdict := m.mrVerdict }

/-- The engine's step passes a command that is not in flight. -/
theorem engineStep_pass {i effect} {s : State} (h : ∀ c, s.pend = some c → c.op ≠ i) :
    s.engineStep i effect = .next s.advance := by
  rcases hp : s.pend with _ | c
  · simp [State.engineStep, hp]
  · simp [State.engineStep, hp, h c hp]

/-- POWMOD's effect does not look at the context (R86). -/
theorem effectOf_powmod_withContextOf {c : Pending} {s u : State} (m : State) (h : effectOf .powmod c s = .next u) :
    effectOf .powmod c (s.withContextOf m) = .next (u.withContextOf m) := by
  by_cases hn : c.n = 0
  · simp [effectOf, effectPowmod, hn] at h
  · rw [effectOf_powmod hn] at h ⊢
    obtain rfl := Host.Outcome.next.inj h
    rfl

/-- POWMOD's issue half does not look at the context: its check is on the snapshot (R81, R86). -/
theorem issue_powmod_withContextOf {s t : State} (m : State)
    (h : s.issue .powmod (checkOf .powmod) (startOf .powmod) = .next t) :
    (s.withContextOf m).issue .powmod (checkOf .powmod) (startOf .powmod) = .next (t.withContextOf m) := by
  rcases issue_cases h with ⟨c, hp, rfl⟩ | ⟨e, hp, hc, rfl⟩ | ⟨hp, hc, rfl⟩
  · exact issue_busy (s := s.withContextOf m) hp
  · exact issue_refused (s := s.withContextOf m) hp hc
  · exact issue_started (s := s.withContextOf m) hp hc

/-- Either half of POWMOD does the same whatever the context holds (R86). -/
theorem exec_powmod_withContextOf {s t : State} (m : State) (h : exec .powmod s = .next t) :
    exec .powmod (s.withContextOf m) = .next (t.withContextOf m) := by
  cases hturn : s.engineTurn with
  | false =>
    rw [exec_issue .powmod hturn] at h
    rw [exec_issue (s := s.withContextOf m) .powmod hturn]
    exact issue_powmod_withContextOf m h
  | true =>
    rw [exec_engine .powmod hturn] at h
    rw [exec_engine (s := s.withContextOf m) .powmod hturn]
    rcases engineStep_cases h with ⟨c, u, hp, hop, he, rfl⟩ | ⟨hpass, rfl⟩
    · exact engineStep_next (s := s.withContextOf m) hp hop (effectOf_powmod_withContextOf m he)
    · exact engineStep_pass (s := s.withContextOf m) hpass

/-- Settles O16: what either half keeps (`exec_powmod_keeps`) bounds the bytes that change, and either half is the same
whatever the context (`exec_powmod_withContextOf`). -/
theorem powmodFrame : Obligations.PowmodFrame := by
  refine ⟨fun s t h => ?_, fun s t n r y k q i d v h => ?_⟩
  · obtain ⟨hoperands, hresults⟩ := exec_powmod_keeps h
    have hbytes := sameBytesOutside_commandOrResultBytes hoperands hresults
    obtain ⟨-, hmrn, hmrr, hmry, hmrS, hmrRounds, hinit, hdecided, hverdict⟩ := hresults
    refine ⟨hoperands, hmrn, hmrr, hmry, hmrS, hmrRounds, hinit, hdecided, hverdict, hbytes, fun hturn => ?_,
      fun hturn => ?_⟩
    · rw [exec_issue .powmod hturn] at h
      obtain ⟨-, hres, -⟩ := issue_keeps_results h
      exact hres
    · rw [exec_powmod_engine_frame hturn h]
      exact ⟨rfl, rfl, rfl⟩
  · exact exec_powmod_withContextOf
      { s with mrn := n, mrr := r, mry := y, mrS := k, mrRounds := q, mrInit := i, mrDecided := d, mrVerdict := v } h

end Sys2Proof.Machine
end

section
/-! Proofs for the family 42_miller_rabin.md: MR_INIT (R89, R90), MR_ROUND (R91 to R96, R100, R101), MR_CLEAR (R97), the
frame of the three, runs from reset (R88), and the host's `IsPrime` (R98). -/

namespace Sys2Proof.Machine

/-! ### MR_INIT and MR_CLEAR on the engine's turn (R89, R90, R97) -/

/-- On the engine's turn the command in flight takes its effect and completes (40_command_lifecycle.md R75). -/
theorem exec_completes {s u : State} {i : Instr} {c : Pending} (hturn : s.engineTurn = true) (hp : s.pend = some c)
    (hop : c.op = i) (he : effectOf i c s = .next u) : exec i s = .next u.complete.advance := by
  rw [exec_engine i hturn, engineStep_next hp hop he]

/-- MR_INIT takes over what `mrLoad` gives for the snapshot's candidate (R89). -/
theorem effectOf_mrInit {c : Pending} {m : MrLoad} (hload : mrLoad c.n = m) (s : State) :
    effectOf .mrInit c s = .next { s with
      mrn := c.n
      mry := 0
      mrRounds := 0
      mrInit := true
      mrDecided := m.decided
      mrVerdict := m.verdict
      mrr := m.r
      mrS := BitVec.ofNat 32 m.s } := by
  subst hload
  rfl

/-- Settles O17: the completed effect with what `mrLoad_settled` loads. -/
theorem mrInitSettlesSmallAndEven : Obligations.MrInitSettlesSmallAndEven := by
  intro s a d n hturn hp hn
  rw [exec_completes hturn hp rfl (effectOf_mrInit (mrLoad_settled hn) s)]
  rfl

/-- Settles O18: the completed effect with what `mrLoad_odd` loads; `decomposition_bounds` bounds it, with `2^n` as a
bound of `n` where only the odd part is asked for. -/
theorem mrInitDecomposes : Obligations.MrInitDecomposes := by
  intro s a d n hturn hp hodd h5
  obtain ⟨r, k, hload, hr, hk, hdec⟩ := mrLoad_odd hodd h5
  obtain ⟨hrn, -⟩ := decomposition_bounds h5 n.lt_two_pow_self hdec
  refine ⟨r, k, hr, hk, hdec, hrn, fun hn => ?_, ?_⟩
  · obtain ⟨-, hkw⟩ := decomposition_bounds h5 hn hdec
    omega
  · rw [exec_completes hturn hp rfl (effectOf_mrInit hload s)]
    rfl

/-- Settles O21: MR_CLEAR's effect, completed. -/
theorem mrClearEmptiesTheContext : Obligations.MrClearEmptiesTheContext := by
  intro s a d n hturn hp
  rw [exec_completes hturn hp rfl rfl]
  rfl

/-! ### MR_ROUND at acceptance (R92) -/

/-- Settles O10: the checks pass (`checkMrRound_eq_none`), so the round goes in flight (`exec_launched`). -/
theorem roundStartsWithinRange : Obligations.RoundStartsWithinRange := by
  intro s hturn hp hinit hopen hlo hhi
  exact exec_launched hturn hp (by decide) (checkMrRound_eq_none.mpr ⟨hinit, hopen, hlo, hhi⟩)

/-- MR_ROUND refused by its checks on an idle block (R92, 40_command_lifecycle.md R72). -/
theorem exec_mrRound_refused {s : State} {e : ErrCode} (hturn : s.engineTurn = false) (hp : s.pend = none)
    (hc : checkMrRound (s.snapshot .mrRound) s = some e) :
    exec .mrRound s = .next ((s.refuse e (encode .mrRound)).respond (.write .okay)).advance := by
  rw [exec_issue .mrRound hturn, issue_refused (check := checkOf .mrRound) hp hc]

/-- Settles O11: in each case `checkMrRound` stops at the named error. -/
theorem roundIsRefusedInOrder : Obligations.RoundIsRefusedInOrder := by
  intro s e hturn hp h
  have hcheck : checkMrRound (s.snapshot .mrRound) s = some e := by
    rcases h with ⟨rfl, hinit⟩ | ⟨rfl, hinit, hdecided⟩ | ⟨rfl, hinit, hopen, hrange⟩
    · simp [checkMrRound, hinit]
    · simp [checkMrRound, hinit, hdecided]
    · have hrange' : (s.snapshot .mrRound).a < 2 ∨ s.mrn < (s.snapshot .mrRound).a + 2 := hrange
      rw [checkMrRound, if_neg (by simp [hinit]), if_neg (by simp [hopen]), if_pos hrange']
  rw [exec_mrRound_refused hturn hp hcheck]
  rfl

/-! ### What a round decides (R93) -/

/-- The round for the base `a` passes on the candidate `n` with the decomposition `r`, `k`, in closed form: `a^r` is 1,
or some `a^(2^j r)` with `j < k` is `n - 1`. `mrRoundResult` decides it (the two lemmas below). -/
def PassesWith (a n r k : Nat) : Prop := a ^ r % n = 1 ∨ ∃ j < k, a ^ (2 ^ j * r) % n = n - 1

/-- A passing round ends at 1 or at `n - 1`. -/
theorem mrRoundResult_of_passesWith {a n r k : Nat} (h3 : 3 ≤ n) (h : PassesWith a n r k) :
    mrRoundResult a n r k = (true, if a ^ r % n = 1 then 1 else n - 1) := by
  unfold mrRoundResult
  rw [powMod_eq]
  by_cases hone : a ^ r % n = 1
  · simp [hone]
  obtain ⟨j, hj, hneg⟩ := h.resolve_left hone
  by_cases hlast : a ^ r % n = n - 1
  · simp [hlast]
  · rw [if_neg (by simp [hone, hlast]), if_neg hone]
    have hloop := squareLoop_spec h3 a r (k - 1) 0 (by simpa using hone) (by simpa using hlast)
    simp only [pow_zero, one_mul, zero_add] at hloop
    rcases hloop with ⟨m, -, -, -, hend⟩ | ⟨hnone, -⟩
    · simp [hend]
    · exact absurd hneg (hnone j (by omega) (by omega))

/-- A failing round ends at the last square. -/
theorem mrRoundResult_of_not_passesWith {a n r k : Nat} (h3 : 3 ≤ n) (hk : 1 ≤ k) (h : ¬ PassesWith a n r k) :
    mrRoundResult a n r k = (false, a ^ (2 ^ (k - 1) * r) % n) := by
  obtain ⟨hone, hneg⟩ := not_or.mp h
  have hne : ∀ j < k, a ^ (2 ^ j * r) % n ≠ n - 1 := fun j hj he => hneg ⟨j, hj, he⟩
  have hlast : a ^ r % n ≠ n - 1 := by simpa using hne 0 hk
  unfold mrRoundResult
  rw [powMod_eq, if_neg (by simp [hone, hlast])]
  have hloop := squareLoop_spec h3 a r (k - 1) 0 (by simpa using hone) (by simpa using hlast)
  simp only [pow_zero, one_mul, zero_add] at hloop
  rcases hloop with ⟨m, -, hm, he, -⟩ | ⟨-, ⟨hend, he⟩ | hend⟩
  · exact absurd he (hne m (by omega))
  · simp [hend, he]
  · simp [hend, hne (k - 1) (by omega)]

/-- An odd factor adds no factor 2. -/
theorem le_of_two_pow_dvd {r k l : Nat} (hr : r % 2 = 1) (h : 2 ^ l ∣ 2 ^ k * r) : l ≤ k := by
  have hodd : Nat.Coprime (2 ^ l) r := (Nat.coprime_two_left.mpr (Nat.odd_iff.mpr hr)).pow_left l
  exact (Nat.pow_dvd_pow_iff_le_right Nat.one_lt_two).mp (hodd.dvd_of_dvd_mul_right h)

/-- Whether a base passes does not depend on the decomposition of `n - 1`, since it has only one. -/
theorem strongPass_iff_passesWith {a n r k : Nat} (hr : r % 2 = 1) (hdec : n - 1 = 2 ^ k * r) :
    StrongPass a n ↔ PassesWith a n r k := by
  refine ⟨?_, fun h => ⟨r, k, hr, hdec, h⟩⟩
  rintro ⟨q, l, hq, hdec', h⟩
  rw [hdec] at hdec'
  obtain rfl : l = k := Nat.le_antisymm (le_of_two_pow_dvd hr (hdec' ▸ Nat.dvd_mul_right ..))
    (le_of_two_pow_dvd hq (hdec' ▸ Nat.dvd_mul_right ..))
  obtain rfl : r = q := Nat.eq_of_mul_eq_mul_left (by positivity) hdec'
  exact h

/-- MR_ROUNDS as a number that saturates (R95). -/
theorem satSucc_eq (c : Word) : satSucc c = BitVec.ofNat 32 (min (c.toNat + 1) 0xFFFFFFFF) := by
  apply BitVec.eq_of_toNat_eq
  rw [satSucc_toNat, BitVec.toNat_ofNat]
  omega

/-- MR_ROUND's effect, by what the round gives (R91, R94 to R96). -/
theorem effectOf_mrRound {c : Pending} {s : State} {pass : Bool} {y : Nat} (hn : s.mrn ≠ 0)
    (hround : mrRoundResult c.a s.mrn s.mrr s.mrS.toNat = (pass, y)) :
    effectOf .mrRound c s = .next { s with
      mry := y
      mrRounds := BitVec.ofNat 32 (min (s.mrRounds.toNat + 1) 0xFFFFFFFF)
      mrDecided := if pass then s.mrDecided else true
      mrVerdict := if pass then s.mrVerdict else false } := by
  rw [effectOf, effectMrRound, if_neg hn, hround, satSucc_eq]

/-- If MR_ROUND's effect gives a next state, it is that of `effectOf_mrRound`. -/
theorem effectOf_mrRound_eq_next {c : Pending} {s u : State} (h : effectOf .mrRound c s = .next u) :
    ∃ pass y, s.mrn ≠ 0 ∧ mrRoundResult c.a s.mrn s.mrr s.mrS.toNat = (pass, y) ∧ u = { s with
      mry := y
      mrRounds := BitVec.ofNat 32 (min (s.mrRounds.toNat + 1) 0xFFFFFFFF)
      mrDecided := if pass then s.mrDecided else true
      mrVerdict := if pass then s.mrVerdict else false } := by
  have hn : s.mrn ≠ 0 := fun hn => by simp [effectOf, effectMrRound, hn] at h
  obtain ⟨pass, y, hround⟩ : ∃ pass y, mrRoundResult c.a s.mrn s.mrr s.mrS.toNat = (pass, y) := ⟨_, _, rfl⟩
  rw [effectOf_mrRound hn hround] at h
  exact ⟨pass, y, hn, hround, (Host.Outcome.next.inj h).symm⟩

/-- Settles O19: the completed effect of a round that passes (`mrRoundResult_of_passesWith`). -/
theorem roundPasses : Obligations.RoundPasses := by
  intro s a d n hturn hp h5 _ hpass
  have hround := mrRoundResult_of_passesWith (by omega) hpass
  rw [exec_completes hturn hp rfl (effectOf_mrRound (by omega) hround)]
  rfl

/-- Settles O20: the completed effect of a round that fails (`mrRoundResult_of_not_passesWith`). -/
theorem roundFails : Obligations.RoundFails := by
  intro s a d n hturn hp h5 hk hfail
  have hround := mrRoundResult_of_not_passesWith (by omega) hk hfail
  rw [exec_completes hturn hp rfl (effectOf_mrRound (by omega) hround)]
  rfl

/-! ### What MR_ROUND reads (R101) -/

/-- MR_ROUND's effect looks at the witness of the snapshot and at the context alone, and leaves PEND and the operands to
themselves (R101). -/
theorem effectOf_mrRound_congr {c c' : Pending} {s u : State} (ha : c'.a = c.a) (h : effectOf .mrRound c s = .next u)
    (p : Option Pending) (x y z : Nat) :
    effectOf .mrRound c' { s with pend := p, opa := x, opd := y, opn := z } =
      .next { u with pend := p, opa := x, opd := y, opn := z } := by
  obtain ⟨pass, w, hn, hround, rfl⟩ := effectOf_mrRound_eq_next h
  exact effectOf_mrRound (s := { s with pend := p, opa := x, opd := y, opn := z }) hn (ha ▸ hround)

/-- Settles O24: the completed effect, which is the same for every other operand (`effectOf_mrRound_congr`). -/
theorem roundIgnoresLiveOperands : Obligations.RoundIgnoresLiveOperands := by
  intro s t a d n d' n' x y z hturn hp h
  rw [exec_engine .mrRound hturn] at h
  rcases engineStep_cases h with ⟨c, u, hc, -, he, rfl⟩ | ⟨hpass, -⟩
  · obtain rfl : ⟨.mrRound, a, d, n⟩ = c := Option.some.inj (hp.symm.trans hc)
    have he' := effectOf_mrRound_congr (c' := ⟨.mrRound, a, d', n'⟩) rfl he (some ⟨.mrRound, a, d', n'⟩) x y z
    exact exec_completes (s := { s with pend := some ⟨.mrRound, a, d', n'⟩, opa := x, opd := y, opn := z })
      hturn rfl rfl he'
  · exact absurd rfl (hpass _ hp)

/-! ### The frame of the Miller-Rabin commands (R78, R88, R91) -/

/-- The effects of MR_INIT, MR_ROUND and MR_CLEAR are on the context alone. -/
theorem effectOf_withContextOf {i : Instr} {c : Pending} {s u : State}
    (hi : i = .mrInit ∨ i = .mrRound ∨ i = .mrClear) (h : effectOf i c s = .next u) : u = s.withContextOf u := by
  rcases hi with rfl | rfl | rfl
  · obtain rfl := Host.Outcome.next.inj h
    rfl
  · obtain ⟨pass, y, -, -, rfl⟩ := effectOf_mrRound_eq_next h
    rfl
  · obtain rfl := Host.Outcome.next.inj h
    rfl

/-- A round keeps the candidate, its decomposition and MR_INIT (R91). -/
theorem effectOf_mrRound_keeps {c : Pending} {s u : State} (h : effectOf .mrRound c s = .next u) :
    u.mrn = s.mrn ∧ u.mrr = s.mrr ∧ u.mrS = s.mrS ∧ u.mrInit = s.mrInit := by
  obtain ⟨pass, y, -, -, rfl⟩ := effectOf_mrRound_eq_next h
  exact ⟨rfl, rfl, rfl, rfl⟩

/-- On the engine's turn the three commands change the context, PEND and DONE at most, and the agenda moves on. -/
theorem exec_mr_engine_frame {s t : State} {i : Instr} (hi : i = .mrInit ∨ i = .mrRound ∨ i = .mrClear)
    (hturn : s.engineTurn = true) (h : exec i s = .next t) :
    t = { s.withContextOf t with pend := t.pend, done := t.done, agenda := t.agenda } := by
  rw [exec_engine i hturn] at h
  rcases engineStep_cases h with ⟨c, u, -, -, he, rfl⟩ | ⟨-, rfl⟩
  · rw [effectOf_withContextOf hi he]
    rfl
  · rfl

/-- The engine's turn of MR_ROUND keeps the candidate, its decomposition and MR_INIT (R91). -/
theorem exec_mrRound_engine_keeps {s t : State} (hturn : s.engineTurn = true) (h : exec .mrRound s = .next t) :
    t.mrn = s.mrn ∧ t.mrr = s.mrr ∧ t.mrS = s.mrS ∧ t.mrInit = s.mrInit := by
  rw [exec_engine .mrRound hturn] at h
  rcases engineStep_cases h with ⟨c, u, -, -, he, rfl⟩ | ⟨-, rfl⟩
  · simpa using effectOf_mrRound_keeps he
  · exact ⟨rfl, rfl, rfl, rfl⟩

/-- The context shows in its own bytes alone (20_memory.md R44). -/
theorem sameBytesOutside_contextBytes (s m : State) : s.SameBytesOutside contextBytes (s.withContextOf m) := by
  refine sameBytesOutside rfl (fun off r hl hout => ?_) (fun off x i hl hout => ?_)
  · obtain ⟨hoff, hk⟩ := csr_of_locate hl
    have hindex := csrAt_index hk
    unfold contextBytes at hout
    cases r with
    | mrStatus | mrS | mrRounds => simp only at hindex; omega
    | id | param | ctrl | status | cmd => rfl
  · obtain ⟨-, hoff, hk, -⟩ := window_of_locate hl
    have hindex := windowAt_index hk
    unfold contextBytes at hout
    cases x with
    | mrn | mrr | mry => simp only at hindex; omega
    | opa | opd | opn | res => rfl

/-- If the operands, the enables, the build and RES stay, then so do all bytes but those of STATUS, CMD and the context
(20_memory.md R44). -/
theorem sameBytesOutside_commandOrContextBytes {s t : State} (ho : s.SameOperands t) (hr : t.res = s.res) :
    s.SameBytesOutside (fun off => commandBytes off ∨ contextBytes off) t := by
  intro off hout
  obtain ⟨hcommand, hcontext⟩ := not_or.mp hout
  have ⟨_, _, _, _, _, hb⟩ := ho
  calc t.byteAt (s.build.base + off)
      = (t.withContextOf s).byteAt (s.build.base + off) := by
        rw [← hb]
        exact (sameBytesOutside_contextBytes t s off hcontext).symm
    _ = s.byteAt (s.build.base + off) :=
        sameBytesOutside_commandBytes (t := t.withContextOf s) ho ⟨hr, rfl, rfl, rfl, rfl, rfl, rfl, rfl, rfl⟩ off
          hcommand

/-- Settles O22: the issue half keeps the operands and the results, and the engine half is framed by
`exec_mr_engine_frame`; what either keeps bounds the bytes that change. -/
theorem millerRabinFrame : Obligations.MillerRabinFrame := by
  intro s t i hi h
  cases hturn : s.engineTurn with
  | false =>
    have hissue := h
    rw [exec_issue i hturn] at hissue
    have hoperands := issue_sameOperands hissue
    obtain ⟨-, hresults⟩ := issue_keeps_results hissue
    have ⟨hres, hmrn, hmrr, _, hmrS, _, hinit, _, _⟩ := hresults
    exact ⟨hoperands, hres, sameBytesOutside_commandOrContextBytes hoperands hres, fun _ => hresults, by simp,
      fun _ => ⟨hmrn, hmrr, hmrS, hinit⟩⟩
  | true =>
    have hframe := exec_mr_engine_frame hi hturn h
    have hoperands : s.SameOperands t := by rw [hframe]; exact ⟨rfl, rfl, rfl, rfl, rfl, rfl⟩
    have hres : t.res = s.res := by rw [hframe]; rfl
    refine ⟨hoperands, hres, sameBytesOutside_commandOrContextBytes hoperands hres, by simp, fun _ => ?_, ?_⟩
    · rw [hframe]
      exact ⟨rfl, rfl, rfl⟩
    · rintro rfl
      exact exec_mrRound_engine_keeps hturn h

/-! ### Primes and shared factors (R93, R100) -/

/-- Modulo a prime the square roots of 1 are 1 and -1. -/
theorem eq_one_or_pred_of_mul_self {p y : Nat} (hp : p.Prime) (hy : y < p) (h : y * y % p = 1) :
    y = 1 ∨ y = p - 1 := by
  have hpos : y ≠ 0 := by
    rintro rfl
    simp at h
  have hdvd : p ∣ y * y - 1 * 1 := by
    have hmod := Nat.dvd_sub_mod (n := p) (y * y)
    rwa [h] at hmod
  rw [Nat.mul_self_sub_mul_self_eq, hp.dvd_mul] at hdvd
  rcases hdvd with hsum | hdiff
  · have := Nat.le_of_dvd (by omega) hsum
    omega
  · have := Nat.eq_zero_of_dvd_of_lt hdiff (by omega)
    omega

/-- Going back from a square that is 1 modulo a prime, the first one that is not 1 is `n - 1`. -/
theorem passesWith_of_pow_eq_one {p a r k : Nat} (hp : p.Prime) :
    ∀ {j : Nat}, j ≤ k → a ^ (2 ^ j * r) % p = 1 → PassesWith a p r k := by
  intro j
  induction j with
  | zero =>
    intro _ h
    exact .inl (by simpa using h)
  | succ j ih =>
    intro hj h
    rw [← sq_chain] at h
    rcases eq_one_or_pred_of_mul_self hp (Nat.mod_lt _ hp.pos) h with hone | hneg
    · exact ih (by omega) hone
    · exact .inr ⟨j, hj, hneg⟩

/-- A prime passes for every base that it does not divide: by Fermat the last square is 1 (R100). -/
theorem passesWith_of_prime {p a r k : Nat} (hp : p.Prime) (hdec : p - 1 = 2 ^ k * r) (ha : a.Coprime p) :
    PassesWith a p r k := by
  have hfermat : a ^ (2 ^ k * r) % p = 1 % p := hdec ▸ Nat.ModEq.pow_card_sub_one_eq_one hp ha
  rw [Nat.mod_eq_of_lt hp.one_lt] at hfermat
  exact passesWith_of_pow_eq_one hp le_rfl hfermat

/-- A base that shares a factor with the candidate fails: the factor divides every power of it, and neither 1 nor
`n - 1` (R93). -/
theorem not_passesWith_of_gcd {a n r k : Nat} (hn : 1 < n) (hr : r ≠ 0) (hg : 1 < Nat.gcd a n) :
    ¬ PassesWith a n r k := by
  have hdvd : ∀ m, m ≠ 0 → Nat.gcd a n ∣ a ^ m % n := fun m hm =>
    (Nat.dvd_mod_iff (Nat.gcd_dvd_right a n)).mpr (dvd_pow (Nat.gcd_dvd_left a n) hm)
  have hunit : ¬ Nat.gcd a n ∣ 1 := fun h => by
    have := Nat.le_of_dvd one_pos h
    omega
  rintro (hone | ⟨j, -, hneg⟩)
  · exact hunit (hone ▸ hdvd r hr)
  · have hpred : Nat.gcd a n ∣ n - 1 := hneg ▸ hdvd (2 ^ j * r) (by positivity)
    have hsub := Nat.dvd_sub (Nat.gcd_dvd_right a n) hpred
    rw [Nat.sub_sub_self hn.le] at hsub
    exact hunit hsub

/-- Settles O25: the witness lies below the prime and so is coprime to it, and such a round passes
(`passesWith_of_prime`), which leaves the verdict as the invariant has it. -/
theorem primePassesEveryRound : Obligations.PrimePassesEveryRound := by
  intro s a d n h hturn hp hprime
  obtain ⟨-, -, -, -, -, hround⟩ := h.flight _ hp
  obtain ⟨hinit, hopen, hlo, hhi⟩ := hround rfl
  obtain ⟨hverdict, -, h5, hdec, -, hk⟩ := h.context.2 hinit hopen
  have hlo' : 2 ≤ a := hlo
  have hhi' : a + 2 ≤ s.mrn := hhi
  have hcoprime : a.Coprime s.mrn := (Nat.coprime_of_lt_prime (by omega) (by omega) hprime).symm
  exact ⟨_, roundPasses s a d n hturn hp h5 hk (passesWith_of_prime hprime hdec hcoprime), hverdict, hopen⟩

/-- Settles O26: such a round does not pass (`not_passesWith_of_gcd`), so it fails. -/
theorem sharedFactorFails : Obligations.SharedFactorFails := by
  intro s a d n h hturn hp hg
  obtain ⟨-, -, -, -, -, hround⟩ := h.flight _ hp
  obtain ⟨hinit, hopen, -⟩ := hround rfl
  obtain ⟨-, -, h5, -, hr, hk⟩ := h.context.2 hinit hopen
  have hfail := not_passesWith_of_gcd (k := s.mrS.toNat) (by omega) (by omega : s.mrr ≠ 0) hg
  exact ⟨_, roundFails s a d n hturn hp h5 hk hfail, rfl, rfl⟩

/-! ### Runs (R75, R88) -/

/-- The invariant does not look at the agenda. -/
theorem State.Inv.withAgenda {s : State} (h : s.Inv) (l : List Event) : ({ s with agenda := l } : State).Inv :=
  ⟨h.legal, h.fits, h.errs, h.context, h.flight⟩

/-- Every run from a state of the invariant goes on, and ends in one. -/
theorem State.Inv.run (k : Nat) :
    ∀ {s : State}, s.Inv → ∃ t : State, Sys2Proof.core.run k s = .next t ∧ t.Inv := by
  induction k with
  | zero => exact fun {s} h => ⟨s, rfl, h⟩
  | succ k ih =>
    intro s h
    obtain ⟨u, hstep⟩ := invariantStatesNeverStop s h
    rw [run_succ hstep]
    exact ih (stepKeepsTheInvariant s u h hstep)

/-- Settles O54: the reset state of a legal build meets the invariant, with any agenda, and every run keeps it. -/
theorem runsFromResetGoOn : Obligations.RunsFromResetGoOn := by
  intro b agenda k hb
  obtain ⟨t, hrun, ht⟩ := ((inv_resetOf hb).withAgenda agenda).run k
  exact ⟨t, hrun, ht, ht.context⟩

/-! ### One script of the host's procedure: load an operand, issue a command, wait (R98, 30_encoding.md R67) -/

/-- `LD` sets the operand and keeps the results and PEND. -/
theorem run_load {s : State} {x : Window} {value : Nat} {rest : List Event} (h : s.Inv) (hx : x.isOperand = true)
    (hv : value < 2 ^ s.build.w) (ha : s.agenda = Script.ld s.build.nw x value ++ rest) :
    ∃ t : State, Sys2Proof.core.run s.build.nw s = .next t ∧ t.windowValue x = value ∧ s.SameResults t ∧
      t.pend = s.pend ∧ t.agenda = rest ∧ t.Inv := by
  obtain ⟨t, hrun, hvalue, -, hframe⟩ := loadSetsTheOperand s x value rest h.legal h.fits hx hv ha
  obtain ⟨t', hrun', ht⟩ := h.run s.build.nw
  obtain rfl := Host.Outcome.next.inj (hrun.symm.trans hrun')
  refine ⟨t, hrun, hvalue, ?_, ?_, ?_, ht⟩ <;> rw [hframe]
  exact ⟨rfl, rfl, rfl, rfl, rfl, rfl, rfl, rfl, rfl⟩

/-- `WAIT` ends with the command in flight completed, however often it polls. -/
theorem run_wait {s u : State} {c : Pending} {polls : Nat} (hp : s.pend = some c) (ha : s.agenda = Script.wait polls)
    (he : effectOf c.op c s = .next u) :
    ∃ t : State, Sys2Proof.core.run (Script.wait polls).length s = .next t ∧ u.SameResults t ∧ t.pend = none := by
  obtain ⟨x, hpolls⟩ := run_polls Script.statusOffset 4 [.engine, Script.rd Script.statusOffset] polls s ha
  have he' := effectOf_liveOperands he s.opa s.opd s.opn x [.engine, Script.rd Script.statusOffset]
  have hengine := step_completes he' rfl hp
  have hread := step_read (s := State.advance (State.complete { u with
    opa := s.opa, opd := s.opd, opn := s.opn, answer := x, agenda := [.engine, Script.rd Script.statusOffset] })) rfl
  rw [Script.wait, List.length_append, List.length_replicate, run_add hpolls]
  exact ⟨_, (run_succ hengine).trans (run_succ hread), ⟨rfl, rfl, rfl, rfl, rfl, rfl, rfl, rfl, rfl⟩, rfl⟩

/-- A command whose checks pass on an idle block is in flight after its CMD write, with the operands as its snapshot. -/
theorem step_cmd_launched {s : State} {i : Instr} {rest : List Event} (hp : s.pend = none) (hi : i ≠ .nop)
    (hc : checkOf i (s.snapshot i) s = none) (ha : s.agenda = Script.cmd i ++ rest) :
    ∃ t, step s = .next t ∧ t.pend = some (t.snapshot i) ∧ t.agenda = rest ∧ s.SameResults t ∧
      ∀ x, t.windowValue x = s.windowValue x := by
  have hstep := step_issue ha (decodeWord_encode i)
  rw [exec_launched (by simp [State.engineTurn, ha, Script.cmd, Script.wr]) hp hi hc] at hstep
  exact ⟨_, hstep, rfl, by simp [ha, Script.cmd], ⟨rfl, rfl, rfl, rfl, rfl, rfl, rfl, rfl, rfl⟩,
    fun x => by cases x <;> rfl⟩

/-- In a state of the invariant the command in flight has an effect. -/
theorem State.Inv.effectOf_eq_next {s : State} (h : s.Inv) {c : Pending} (hp : s.pend = some c) :
    ∃ u, effectOf c.op c s = .next u := by
  rcases he : effectOf c.op c s with u | f | r
  · exact ⟨u, rfl⟩
  · exact absurd he (h.effectOf_ne_fault hp f)
  · exact absurd he (effectOf_ne_refused _ _ _ r)

theorem State.SameResults.trans {s t u : State} (h : s.SameResults t) (h' : t.SameResults u) : s.SameResults u := by
  unfold State.SameResults at h h' ⊢
  simp only [h', h, and_self]

/-- A command whose checks pass once its operand is loaded takes its effect, and leaves the block idle. -/
theorem runScript_command {s : State} {x : Window} {value : Nat} {i : Instr} (h : s.Inv) (hp : s.pend = none)
    (hx : x.isOperand = true) (hv : value < 2 ^ s.build.w) (hi : i ≠ .nop)
    (hc : ∀ m : State, m.windowValue x = value → s.SameResults m → checkOf i (m.snapshot i) m = none)
    (polls : Nat) :
    ∃ m u t : State, s.runScript (Script.ld s.build.nw x value ++ Script.cmd i ++ Script.wait polls) = .next t ∧
      m.windowValue x = value ∧ s.SameResults m ∧ effectOf i (m.snapshot i) m = .next u ∧ u.SameResults t ∧
      t.pend = none ∧ t.Inv := by
  have hscript := h.withAgenda (Script.ld s.build.nw x value ++ Script.cmd i ++ Script.wait polls)
  obtain ⟨l, hload, hvalue, hloaded, hidle, hcmd, hl⟩ := run_load hscript hx hv (List.append_assoc _ _ _)
  obtain ⟨m, hissue, hflight, hwait, hissued, hwindow⟩ :=
    step_cmd_launched (hidle.trans hp) hi (hc l hvalue hloaded) hcmd
  obtain ⟨u, he⟩ := (stepKeepsTheInvariant l m hl hissue).effectOf_eq_next hflight
  obtain ⟨t, hdone, heffect, ht⟩ := run_wait hflight hwait he
  have hrun : s.runScript (Script.ld s.build.nw x value ++ Script.cmd i ++ Script.wait polls) = .next t := by
    have hlength : (Script.ld s.build.nw x value ++ Script.cmd i ++ Script.wait polls).length =
        s.build.nw + ((Script.wait polls).length + 1) := by
      simp [Script.ld, Script.cmd]
    rw [State.runScript, hlength, run_add hload, run_succ hissue]
    exact hdone
  obtain ⟨t', hrun', hinv⟩ := hscript.run _
  obtain rfl := Host.Outcome.next.inj (hrun.symm.trans hrun')
  exact ⟨m, u, t, hrun, (hwindow x).trans hvalue, State.SameResults.trans hloaded hissued, he, heffect, ht, hinv⟩

/-! ### The host's procedure (R98) -/

/-- An idle block with the candidate `n` loaded, between two scripts of the host's procedure. -/
structure State.Loaded (n : Nat) (s : State) : Prop where
  inv : s.Inv
  idle : s.pend = none
  init : s.mrInit = true
  candidate : s.mrn = n

/-- The first script loads the candidate, with the verdict that `mrLoad` gives it (R89). -/
theorem runScript_mrInit {s : State} {n : Nat} (h : s.Inv) (hp : s.pend = none) (hn : n < 2 ^ s.build.w)
    (polls : Nat) :
    ∃ t, s.runScript (Script.ld s.build.nw .opn n ++ Script.cmd .mrInit ++ Script.wait polls) = .next t ∧
      t.Loaded n ∧ t.mrDecided = (mrLoad n).decided ∧ t.mrVerdict = (mrLoad n).verdict := by
  obtain ⟨m, u, t, hrun, hopn, -, he, hu, ht, hinv⟩ :=
    runScript_command (x := .opn) (i := .mrInit) h hp rfl hn (by decide) (fun _ _ _ => rfl) polls
  obtain rfl : m.opn = n := hopn
  rw [effectOf_mrInit rfl] at he
  obtain rfl := Host.Outcome.next.inj he
  obtain ⟨-, hmrn, -, -, -, -, hinit, hdecided, hverdict⟩ := hu
  exact ⟨t, hrun, ⟨hinv, ht, hinit, hmrn⟩, hdecided, hverdict⟩

/-- The script of one round leaves the verdict open if the witness passes, and else decides it 0 (R93, R94). -/
theorem runScript_mrRound {s : State} {n a : Nat} (h : s.Loaded n) (hopen : s.mrDecided = false)
    (ha : 2 ≤ a ∧ a + 2 ≤ n) (polls : Nat) :
    ∃ t, s.runScript (Script.ld s.build.nw .opa a ++ Script.cmd .mrRound ++ Script.wait polls) = .next t ∧
      t.Loaded n ∧ (StrongPass a n → t.mrDecided = false) ∧
      (¬ StrongPass a n → t.mrDecided = true ∧ t.mrVerdict = false) := by
  obtain ⟨hinv, hp, hinit, rfl⟩ := h
  obtain ⟨-, -, -, -, hmrn, -⟩ := hinv.fits
  obtain ⟨-, -, h5, hdec, hr, hk⟩ := hinv.context.2 hinit hopen
  have hcheck : ∀ m : State, m.windowValue .opa = a → s.SameResults m →
      checkOf .mrRound (m.snapshot .mrRound) m = none := by
    rintro m rfl ⟨-, hn, -, -, -, -, hi, hd, -⟩
    exact checkMrRound_eq_none.mpr ⟨hi.trans hinit, hd.trans hopen, ha.1, hn ▸ ha.2⟩
  obtain ⟨m, u, t, hrun, hopa, hm, he, hu, ht, hinv'⟩ :=
    runScript_command (x := .opa) (i := .mrRound) hinv hp rfl (by omega) (by decide) hcheck polls
  obtain ⟨pass, y, -, hround, rfl⟩ := effectOf_mrRound_eq_next he
  obtain ⟨-, hn, hrr, -, hs, -, hi, hd, -⟩ := hm
  obtain ⟨-, hn', -, -, -, -, hi', hdecided, hverdict⟩ := hu
  rw [hn, hrr, hs, show (m.snapshot .mrRound).a = a from hopa] at hround
  refine ⟨t, hrun, ⟨hinv', ht, hi'.trans (hi.trans hinit), hn'.trans hn⟩, fun hpass => ?_, fun hfail => ?_⟩
  · rw [strongPass_iff_passesWith hr hdec] at hpass
    rw [mrRoundResult_of_passesWith (by omega) hpass] at hround
    obtain ⟨rfl, -⟩ := Prod.mk.inj hround
    exact hdecided.trans (hd.trans hopen)
  · rw [strongPass_iff_passesWith hr hdec] at hfail
    rw [mrRoundResult_of_not_passesWith (by omega) hk hfail] at hround
    obtain ⟨rfl, -⟩ := Prod.mk.inj hround
    exact ⟨hdecided, hverdict⟩

/-- A decided verdict ends the procedure (R99). -/
theorem hostRounds_decided {s : State} (h : s.mrDecided = true) (draws : List (Nat × Nat)) :
    s.hostRounds draws = .next s := by
  cases draws with
  | nil => rfl
  | cons x draws => rw [State.hostRounds, if_pos h]

/-- With the verdict open, the rounds leave it at 1 exactly if every drawn witness passes (R94). -/
theorem hostRounds_open {n : Nat} (draws : List (Nat × Nat)) : ∀ {s : State}, s.Loaded n → s.mrDecided = false →
    (∀ x ∈ draws, 2 ≤ x.1 ∧ x.1 + 2 ≤ n) →
    ∃ t, s.hostRounds draws = .next t ∧ (t.mrVerdict = true ↔ ∀ x ∈ draws, StrongPass x.1 n) := by
  induction draws with
  | nil =>
    intro s h hopen _
    obtain ⟨hverdict, -⟩ := h.inv.context.2 h.init hopen
    exact ⟨s, rfl, by simp [hverdict]⟩
  | cons x draws ih =>
    intro s h hopen hrange
    obtain ⟨hx, hdraws⟩ := List.forall_mem_cons.mp hrange
    obtain ⟨t, hrun, ht, hpass, hfail⟩ := runScript_mrRound h hopen hx x.2
    rw [State.hostRounds, if_neg (by simp [hopen]), hrun]
    by_cases hstrong : StrongPass x.1 n
    · obtain ⟨t', hrest, hverdict⟩ := ih ht (hpass hstrong) hdraws
      exact ⟨t', hrest, by simp [hverdict, hstrong]⟩
    · obtain ⟨hdecided, hverdict⟩ := hfail hstrong
      exact ⟨t, hostRounds_decided hdecided draws, by simp [hverdict, hstrong]⟩

/-- Settles O29: the first script loads the candidate (`runScript_mrInit`); then a settled one ends the procedure, and
for an open one the rounds decide (`hostRounds_open`). -/
theorem hostIsPrimeDecidesByItsRounds : Obligations.HostIsPrimeDecidesByItsRounds := by
  intro s polls n draws h hp hn hrange
  obtain ⟨t, hrun, hloaded, hdecided, hverdict⟩ := runScript_mrInit h hp hn polls
  rw [State.hostIsPrime, hrun]
  by_cases hset : n = 2 ∨ n = 3 ∨ n % 2 = 0 ∨ n < 2
  · rw [mrLoad_settled hset] at hdecided hverdict
    refine ⟨t, hostRounds_decided hdecided draws, ?_⟩
    have hsmall : ¬ (n % 2 = 1 ∧ 5 ≤ n) := by omega
    rw [hverdict, decide_eq_true_eq]
    tauto
  · have hodd : n % 2 = 1 := by omega
    have h5 : 5 ≤ n := by omega
    obtain ⟨r, k, hload, -⟩ := mrLoad_odd hodd h5
    rw [hload] at hdecided
    obtain ⟨t', hrounds, hpass⟩ := hostRounds_open draws hloaded hdecided (hrange hodd h5)
    have hlarge : ¬ (n = 2 ∨ n = 3) := by omega
    refine ⟨t', hrounds, ?_⟩
    tauto

end Sys2Proof.Machine
end

section
/-! Proofs for the family 60_exceptions.md: a write of CTRL without SRST (R113, 10_state.md R18), the interrupt line
(R109, R110), and recording an error (R106). -/

namespace Sys2Proof.Machine

/-! ### A write of CTRL without SRST (R113) -/

/-- With ABORT, the write discards the command in flight after setting the enables. -/
theorem writeCtrl_abort {v : Word} {s : State} {c : Pending} (h3 : v.getLsbD 3 = false) (h2 : v.getLsbD 2 = true)
    (hp : s.pend = some c) :
    s.writeCtrl v = { s with
      ieDone := v.getLsbD 0
      ieErr := v.getLsbD 1
      pend := none
      done := true
      err := true
      errcode := if s.err then s.errcode else .abort } := by
  rcases writeCtrl_cases v s with ⟨hsrst, -⟩ | ⟨-, -, -, habort⟩ | ⟨-, hmask, -⟩
  · exact absurd (h3.symm.trans hsrst) Bool.false_ne_true
  · exact habort
  · rw [h2, hp] at hmask
    simp at hmask

/-- Without ABORT, or on an idle block, the write sets the enables and does nothing else. -/
theorem writeCtrl_mask {v : Word} {s : State} (h3 : v.getLsbD 3 = false) (h : v.getLsbD 2 = false ∨ s.pend = none) :
    s.writeCtrl v = s.setEnables (v.getLsbD 0) (v.getLsbD 1) := by
  rcases writeCtrl_cases v s with ⟨hsrst, -⟩ | ⟨-, h2, ⟨c, hp⟩, -⟩ | ⟨-, -, hmask⟩
  · exact absurd (h3.symm.trans hsrst) Bool.false_ne_true
  · rw [h2, hp] at h
    simp at h
  · exact hmask

/-- The step of a write of CTRL that sets the enables alone. -/
theorem step_ctrl_mask {s : State} {v : Word} {rest : List Event} (ha : s.agenda = Script.wr 0x008 v :: rest)
    (h3 : v.getLsbD 3 = false) (h : v.getLsbD 2 = false ∨ s.pend = none) :
    step s = .next { s with
      ieDone := v.getLsbD 0
      ieErr := v.getLsbD 1
      answer := some (.write .okay)
      agenda := rest } := by
  rw [step_write_csr (r := .ctrl) ha rfl rfl (by decide), State.writeCsr, writeCtrl_mask h3 h]
  simp [State.setEnables, State.respond, State.advance, ha]

/-- Settles O43: the write is admitted (`step_write_csr`); `writeCtrl_abort` and `writeCtrl_mask` say what it does. -/
theorem ctrlWriteSetsEnablesAndAborts : Obligations.CtrlWriteSetsEnablesAndAborts := by
  refine fun s v rest ha h3 => ⟨fun h2 c hp => ?_, step_ctrl_mask ha h3⟩
  rw [step_write_csr (r := .ctrl) ha rfl rfl (by decide), State.writeCsr, writeCtrl_abort h3 h2 hp]
  simp [State.respond, State.advance, ha]

/-! ### The interrupt line (R109, R110) -/

/-- irq has the two sources DONE and ERR, each behind its enable (R109). -/
theorem irq_eq_true_iff {s : State} :
    s.irq = true ↔ s.done = true ∧ s.ieDone = true ∨ s.err = true ∧ s.ieErr = true := by
  simp [State.irq]

/-- Settles O45: `irq_eq_true_iff` before the step and after it, where the enables alone have moved
(`step_ctrl_mask`). -/
theorem interruptLineFollowsItsSources : Obligations.InterruptLineFollowsItsSources :=
  fun _ _ _ => ⟨irq_eq_true_iff, fun ha h3 h2 => ⟨_, step_ctrl_mask ha h3 (.inl h2), rfl, rfl, irq_eq_true_iff⟩⟩

/-! ### Recording an error (R106) -/

/-- The first error takes its code. -/
theorem raise_first {s : State} (h : s.err = false) (e : ErrCode) :
    s.raise e = { s with err := true, errcode := e } := by
  simp [State.raise, h]

/-- A further error changes nothing: ERR is 1 already and ERRCODE keeps the first code. -/
theorem raise_again {s : State} (h : s.err = true) (e : ErrCode) : s.raise e = s := by
  have herr : ({ s with err := true } : State) = s := by rw [← h]
  simpa [State.raise, h] using herr

/-- Settles O46: `raise_first` and `raise_again`. -/
theorem raiseRecordsTheFirstError : Obligations.RaiseRecordsTheFirstError :=
  fun e _ => ⟨(raise_first · e), (raise_again · e)⟩

end Sys2Proof.Machine
end

section
/-! Proofs for the family 70_reset_and_hazards.md: the reset state and what it reads as (R120), rst_n and soft reset
(R119, R121 to R123), DONE while a command is in flight (R128), and completion at the end of the agenda (R131). -/

namespace Sys2Proof.Machine

/-! ### What the reset state reads as (R120) -/

/-- Every word of the value 0 is 0. -/
@[simp] theorem wordAt_zero (i : Nat) : wordAt 0 i = 0#32 := by simp [wordAt]

/-- Every window register is 0 at reset. -/
@[simp] theorem windowValue_resetOf (b : Build) (x : Window) : (State.resetOf b).windowValue x = 0 := by
  cases x <;> rfl

/-- So every window reads as 0 at reset, below NW and above. -/
theorem windowWord_resetOf (b : Build) (x : Window) (i : Nat) : (State.resetOf b).windowWord x i = 0#32 := by
  simp [State.windowWord]

/-- PARAM as a word (10_state.md R17). -/
theorem paramWord_eq (s : State) : s.paramWord = BitVec.ofNat 32 (s.build.nw % 65536) := by
  apply BitVec.eq_of_toNat_eq
  rw [paramWord_toNat, BitVec.toNat_ofNat]
  omega

/-- Settles O48: ID is constant, PARAM shows the build (`paramWord_eq`), and the words of CTRL, STATUS and MR_STATUS
are those of cleared bits. -/
theorem resetReadsAsTheTable : Obligations.ResetReadsAsTheTable := by
  rintro b s rfl
  have hctrl : (State.resetOf b).ctrlWord = 0#32 := BitVec.eq_of_toNat_eq (ctrlWord_toNat _)
  have hstatus : (State.resetOf b).statusWord = 0#32 := BitVec.eq_of_toNat_eq (statusWord_toNat _)
  have hmrStatus : (State.resetOf b).mrStatusWord = 0#32 := BitVec.eq_of_toNat_eq (mrStatusWord_toNat _)
  exact ⟨rfl, paramWord_eq _, hctrl, hstatus, rfl, hmrStatus, rfl, rfl, windowWord_resetOf b, rfl, rfl⟩

/-- Settles O51: `inv_resetOf`, and the build of `State.reset` is legal. -/
theorem resetMeetsTheInvariant : Obligations.ResetMeetsTheInvariant :=
  ⟨fun _ => inv_resetOf, inv_resetOf (by decide)⟩

/-! ### rst_n and soft reset (R119, R121 to R123) -/

/-- A write of CTRL with SRST is a soft reset, whatever its other bits (R121, R122). -/
theorem writeCtrl_srst {v : Word} (h3 : v.getLsbD 3 = true) (s : State) : s.writeCtrl v = s.toReset := if_pos h3

/-- A reset that takes the head of the agenda leaves the rest of it to a block just out of reset. -/
theorem advance_toReset {s : State} {e : Event} {rest : List Event} (ha : s.agenda = e :: rest) (x : Option Answer) :
    ({ s.toReset with answer := x } : State).advance = { State.start s.build rest with answer := x } := by
  simp [State.toReset, State.advance, State.start, ha]

/-- Settles O49: either step is a reset (`step_reset`, `writeCtrl_srst`), and `advance_toReset` says where it leads. -/
theorem resetsReachTheResetState : Obligations.ResetsReachTheResetState := by
  refine fun s rest => ⟨fun ha => ⟨none, ?_⟩, fun v ha h3 => ?_⟩
  · rw [step_reset ha, State.hardReset, advance_toReset ha]
  · rw [step_write_csr (r := .ctrl) ha rfl rfl (by decide), State.writeCsr, writeCtrl_srst h3, State.respond,
      advance_toReset ha]

/-- Settles O50: both resets keep the build, and every other register they leave is fixed or a function of it. -/
theorem resettingTwiceIsResettingOnce : Obligations.ResettingTwiceIsResettingOnce := by
  refine ⟨?_, ?_, fun s => ⟨rfl, rfl, rfl, rfl⟩⟩
  · rintro s r (rfl | rfl) <;> exact ⟨rfl, rfl⟩
  · intro s t hb l x
    simp only [State.hardReset, State.toReset, hb]

/-! ### DONE while a command is in flight (R128) -/

/-- Every state of a run from reset of a legal build meets the invariant. -/
theorem inv_of_run_start {b : Build} {agenda : List Event} {k : Nat} {t : State} (hb : b.legal = true)
    (h : Sys2Proof.core.run k (State.start b agenda) = .next t) : t.Inv := by
  obtain ⟨t', hrun, ht'⟩ := ((inv_resetOf hb).withAgenda agenda).run k
  obtain rfl : t = t' := Host.Outcome.next.inj (h.symm.trans hrun)
  exact ht'

/-- The invariant keeps DONE at 0 while a command is in flight. -/
theorem State.Inv.done_eq_false {s : State} (h : s.Inv) (hbusy : s.busy = true) : s.done = false := by
  obtain ⟨c, hp⟩ := Option.ne_none_iff_exists'.mp (busy_eq_true_iff.mp hbusy)
  obtain ⟨-, -, hdone, -⟩ := h.flight c hp
  exact hdone

/-- Settles O55: the invariant holds on the run (`inv_of_run_start`) and says it. -/
theorem doneIsLowWhileBusy : Obligations.DoneIsLowWhileBusy :=
  fun _ _ _ _ hb hrun => (inv_of_run_start hb hrun).done_eq_false

/-! ### Completion at the end of the agenda (R131, log 3) -/

/-- A bus write leaves the agenda to the step that performs it. -/
theorem WriteKind.agenda_eq {off size : Nat} {st : BitVec 4} {v : Word} {s t : State}
    (h : WriteKind off size st v s t) : t.agenda = s.agenda := by
  rcases h with ⟨r, rfl⟩ | ⟨-, -, -, rfl⟩ | ⟨-, -, -, -, rfl⟩ | rfl | ⟨-, -, rfl⟩ | rfl | ⟨e, rfl⟩ | ⟨a, d, n, rfl⟩
  case status => rw [writeStatus_eq]; rfl
  all_goals rfl

/-- A CMD write of a command takes one entry of the agenda. -/
theorem issue_agenda {s t : State} {i : Instr} (h : s.issue i (checkOf i) (startOf i) = .next t) :
    t.agenda = s.agenda.tail := by
  rcases issue_cases h with ⟨c, -, rfl⟩ | ⟨e, -, -, rfl⟩ | ⟨-, -, rfl⟩
  · rfl
  · rfl
  · obtain ⟨p, d, hf⟩ := startOf_frame i (s.snapshot i) (s.accept (encode i))
    simp [hf]

/-- Every step takes one entry of the agenda, and leaves an empty one empty. -/
theorem step_agenda {s t : State} (h : step s = .next t) : t.agenda = s.agenda.tail := by
  cases stepKind h with
  | complete c u _ _ he ht => rw [ht, effectOf_frame he]; rfl
  | issue _ _ _ _ _ _ _ _ _ _ hi => exact issue_agenda hi
  | idle ha _ ht => rw [ht, ha]; rfl
  | pass _ _ _ ht => rw [ht]; rfl
  | reset _ _ ht => rw [ht]; rfl
  | read _ _ _ _ ht => rw [ht]; rfl
  | write off size st v _ _ _ ht => rw [ht, State.advance_agenda, (writeKind off size st v s).agenda_eq]

/-- A run of `k` steps takes `k` entries of the agenda. -/
theorem run_agenda (k : Nat) :
    ∀ {s t : State}, Sys2Proof.core.run k s = .next t → t.agenda = s.agenda.drop k := by
  induction k with
  | zero =>
    intro s t h
    obtain rfl : s = t := Host.Outcome.next.inj h
    rfl
  | succ k ih =>
    intro s t h
    obtain ⟨u, hstep, hrun⟩ := run_succ_eq_next h
    rw [ih hrun, step_agenda hstep, List.drop_tail]

/-- With nothing to come, a step leaves the block idle: the command in flight completes (log 3). -/
theorem busy_eq_false_of_silent_step {s t : State} (ha : s.agenda = []) (h : step s = .next t) : t.busy = false := by
  rw [busy_eq_false_iff]
  cases stepKind h with
  | complete _ _ _ _ _ ht => rw [ht]; rfl
  | idle _ hp ht => rw [ht, hp]
  | issue _ _ _ _ _ _ hhead | pass _ hhead | reset _ hhead | read _ _ _ hhead | write _ _ _ _ _ hhead =>
    simp [ha] at hhead

/-- Settles O56: the run uses up the agenda (`run_agenda`), and the step after it completes the command in flight
(`busy_eq_false_of_silent_step`). -/
theorem everyCommandCompletes : Obligations.EveryCommandCompletes := by
  intro s h
  obtain ⟨u, hrun, hu⟩ := h.run s.agenda.length
  obtain ⟨t, hstep⟩ := invariantStatesNeverStop u hu
  have hempty : u.agenda = [] := by rw [run_agenda _ hrun, List.drop_length]
  refine ⟨t, ?_, busy_eq_false_of_silent_step hempty hstep, ?_⟩
  · rw [run_add hrun]
    exact run_succ hstep
  · rw [step_agenda hstep, hempty, List.tail_nil]

end Sys2Proof.Machine
end
